-- ==== Sys2Proof/Word.lean ====
section
/-! DEFINITION. The words of the block: bit 0 is the least significant bit; a byte is 8 bits, a word 32
(00_scope.md section 6). -/

namespace Sys2Proof

/-- A word is 32 bits: a host register, a timestamp, a duration in microseconds. -/
abbrev Word := BitVec 32

/-- A byte is 8 bits: a byte of the DataFrame, a count. -/
abbrev Byte := BitVec 8

end Sys2Proof
end

