-- ==== Sys2Proof/Config.lean ====
section
/-! DEFINITION. What is fixed for the machine (the constants of R5, the parameters of R6), what the
environment supplies at a step (the input ports of R30), and the free values. -/

namespace Sys2Proof

namespace Config

/-- `T_START_US`, the start-signal hold of 10 ms in microseconds (R5). -/
def tStartUs : Nat := 10000

/-- `PHASE_TARGET`: the loop ends at 41 recorded high phases (R5, R99). -/
def phaseTarget : Nat := 41

/-- `FRAME_BITS`: the number of durations folded into the frame (R5). -/
def frameBits : Nat := 40

/-- `BIT_THRESHOLD_US`: a duration of 30 microseconds or more is a 1 bit (R5, R68). -/
def bitThresholdUs : Nat := 30

/-- `MIN_PULSES`: the least number of recorded high-phase durations (R5, R110). -/
def minPulses : Nat := 40

/-- The number of places a buffer window has in the host address space: the greatest `CAP` (R6, R42). -/
def bufferSlots : Nat := 64

end Config

/-- The build-time parameters a model takes as arguments (R6). Their ranges are checked in WellFormed.lean. -/
structure Params where
  /-- `CAP`, the capacity of each PulseTrain buffer, 1 to 64. -/
  cap : Nat
  /-- `POLL_BUDGET`, the ceiling of polling iterations, 0 to 2^32 - 1. -/
  pollBudget : Nat
deriving DecidableEq, Repr

/-- The defaults of R6: `CAP` = 41, `POLL_BUDGET` = 5000000. -/
def Params.default : Params := { cap := 41, pollBudget := 5000000 }

/-- The input ports of one step (R30). They come from the environment and are not the engine's state (R8). -/
structure Ports where
  /-- `rst`, synchronous reset, active high (R160). -/
  rst : Bool
  /-- `variant_sel`, the strap sampled only at reset (R162). -/
  variantSel : Bool
  /-- `ts`, microseconds modulo 2^32 (R153). -/
  ts : Word
  /-- `line_in`, true is high (R31, R65). -/
  lineIn : Bool
  /-- `h_valid`, true when the host makes an access this step. -/
  hValid : Bool
  /-- `h_write`, true a write, false a read. -/
  hWrite : Bool
  /-- `h_addr`, the word address (R40). -/
  hAddr : BitVec 8
  /-- `h_wdata`, the write data. -/
  hWdata : Word
deriving DecidableEq, Repr, Inhabited

/-- All input ports at 0: no reset, no host access, `ts` = 0, the line low. -/
def Ports.quiet : Ports :=
  { rst := false, variantSel := false, ts := 0, lineIn := false
    hValid := false, hWrite := false, hAddr := 0, hWdata := 0 }

namespace Config

/-- FREE VALUE (log 3): the inputs the environment shows at step number `tick` when no script in the state
says what they are. R8: "at every step any bit for `line_in`, and any word for `ts`". -/
opaque freePorts : Nat → Ports

/-- FREE VALUE (log 8): what a register of `w` bits holds after step number `tick` wrote the number `v` to it,
where `v` does not fit in `w` bits and no rule states the result. -/
opaque unstated : (tick : Nat) → (w : Nat) → (v : Int) → BitVec w

end Config

end Sys2Proof
end

