-- ==== Sys2Proof/Syntax.lean ====
section
/-! DEFINITION. The seventeen operations of the block (R69), the code names of R62 to R64, the word formats of
R60, and the reasons a word is not an operation. -/

namespace Sys2Proof

/-- The operations, one constructor per row of spec/opcode_table.json (R69). Operands that the encoding ignores
(`h_wdata` of a read, bits 31:1 of a command) are no part of an operation. -/
inductive Instr where
  /-- `RD a`, a host read of word address `a` (R83). -/
  | rd (a : BitVec 8)
  /-- `WR a, v`, a host write (R84). -/
  | wr (a : BitVec 8) (v : Word)
  /-- `NOP`, the command word with bit 0 = 0 (R81). -/
  | nop
  /-- `START`, the command word with bit 0 = 1 (R82). -/
  | start
  /-- `IDLE`, rest after reset (R88). -/
  | idle
  /-- `DRV_OUT`, set the line direction to output (R90). -/
  | drvOut
  /-- `DRV_LOW`, drive the level low and note the time (R91). -/
  | drvLow
  /-- `HOLD`, hold low for 10 ms (R92). -/
  | hold
  /-- `REL_IN`, set the direction to input and start the loop (R93). -/
  | relIn
  /-- `POLL`, one polling-loop iteration (R94). -/
  | poll
  /-- `CHK_CNT`, decoder step 1, the pulse-count check (R110). -/
  | chkCnt
  /-- `SKIP`, decoder step 2, the prefix skip (R111). -/
  | skip
  /-- `SHIFT`, decoder step 3, one bit of bit assembly (R112). -/
  | shift
  /-- `CHK_SUM`, decoder step 4, checksum validation (R120). -/
  | chkSum
  /-- `CONV`, decoder step 5, physical conversion (R125). -/
  | conv
  /-- `DONE`, rest with a result (R88). -/
  | done
  /-- `RESET`, the port `rst` at 1 (R160). -/
  | reset
deriving DecidableEq, Repr

/-- The twelve values of the sequencer register `STATE` (R11, R62). The reserved codes 12 to 15 cannot be
expressed, as 93_implementation_defined.md U5 asks (log 6). -/
inductive Sequencer where
  | idle | drvOut | drvLow | hold | relIn | poll | chkCnt | skip | shift | chkSum | conv | done
deriving DecidableEq, Repr

/-- The three values of `ERR` (R12, R63). The reserved code 3 cannot be expressed (log 6). -/
inductive ErrCode where
  | noError | invalidNumberOfPulses | invalidChecksum
deriving DecidableEq, Repr

/-- The SensorVariant (R13, R64): one bit, so no third value. -/
inductive Variant where
  | type11 | type22
deriving DecidableEq, Repr

/-- A word of one of the formats that select an operation (R60), and the one-bit port word of R72. -/
inductive OpWord where
  /-- Format `H`: the host access word, `h_valid` at bit 41, `h_write` at 40, `h_addr` at 39:32, `h_wdata` at 31:0 (R72). -/
  | hostAccess (w : BitVec 42)
  /-- Format `C`: the command word written to `CMD` (R61). -/
  | command (w : BitVec 32)
  /-- Format `S`: the sequencer code (R62). -/
  | sequencer (w : BitVec 4)
  /-- The input port `rst` (R72, R160). -/
  | resetPort (w : BitVec 1)
deriving DecidableEq, Repr

/-- Why a word is not an operation. -/
inductive DecodeReject where
  /-- Format `H` with `h_valid` = 0: no host operation this step (R72). -/
  | noHostAccess
  /-- Format `S` with a reserved code 12 to 15 (R70). -/
  | reservedSequencerCode
  /-- The port word with `rst` = 0: not a reset. -/
  | resetNotAsserted
  /-- A number with bits above the width of its format. -/
  | bitsAboveFormat
  /-- A width that is no format's. -/
  | noSuchFormat
deriving DecidableEq, Repr

end Sys2Proof
end

