-- ==== Sys2Proof/WellFormed.lean ====
section
/-! DEFINITION. Which operations and parameters are well formed. -/

namespace Sys2Proof

/-- The ranges of R6: `CAP` from 1 to 64, `POLL_BUDGET` from 0 to 2^32 - 1. -/
def Params.wellFormed (p : Params) : Bool :=
  decide (1 ≤ p.cap) && decide (p.cap ≤ Config.bufferSlots) && decide (p.pollBudget < 2 ^ 32)

/-- Every operation is well formed: its operands are bit vectors of exactly their fields' widths, and "Nothing in
the block is an illegal instruction: no host access or command raises an error" (R71). -/
def Instr.wellFormed : Instr → Bool
  | .rd _ => true
  | .wr _ _ => true
  | .nop => true
  | .start => true
  | .idle => true
  | .drvOut => true
  | .drvLow => true
  | .hold => true
  | .relIn => true
  | .poll => true
  | .chkCnt => true
  | .skip => true
  | .shift => true
  | .chkSum => true
  | .conv => true
  | .done => true
  | .reset => true

end Sys2Proof
end

