-- ==== Sys2Proof/Decode.lean ====
section
/-! DEFINITION. The codes of R62 to R64, the decoder of R69 over the formats of R60, and the encoder. Both are
total; a word that is no operation is rejected by name. -/

namespace Sys2Proof

/-! ## Field codes -/

/-- The 4-bit code of a `STATE` value (R62). -/
def Sequencer.code : Sequencer → BitVec 4
  | .idle => 0
  | .drvOut => 1
  | .drvLow => 2
  | .hold => 3
  | .relIn => 4
  | .poll => 5
  | .chkCnt => 6
  | .skip => 7
  | .shift => 8
  | .chkSum => 9
  | .conv => 10
  | .done => 11

/-- The `STATE` value of a 4-bit code; the reserved codes have none (R62, R70). -/
def sequencerOfCode (c : BitVec 4) : Except DecodeReject Sequencer :=
  match c.toNat with
  | 0 => .ok .idle
  | 1 => .ok .drvOut
  | 2 => .ok .drvLow
  | 3 => .ok .hold
  | 4 => .ok .relIn
  | 5 => .ok .poll
  | 6 => .ok .chkCnt
  | 7 => .ok .skip
  | 8 => .ok .shift
  | 9 => .ok .chkSum
  | 10 => .ok .conv
  | 11 => .ok .done
  | _ => .error .reservedSequencerCode

/-- The 2-bit code of an `ERR` value (R63). -/
def ErrCode.code : ErrCode → BitVec 2
  | .noError => 0
  | .invalidNumberOfPulses => 1
  | .invalidChecksum => 2

/-- The 1-bit code of a SensorVariant (R64). -/
def Variant.code : Variant → BitVec 1
  | .type11 => 0
  | .type22 => 1

/-- The SensorVariant a strap level selects: 0 `Type11`, 1 `Type22` (R13, R64). -/
def variantOfStrap (strap : Bool) : Variant :=
  if strap then .type22 else .type11

/-- The operation a `STATE` value selects (R62). -/
def engineOp : Sequencer → Instr
  | .idle => .idle
  | .drvOut => .drvOut
  | .drvLow => .drvLow
  | .hold => .hold
  | .relIn => .relIn
  | .poll => .poll
  | .chkCnt => .chkCnt
  | .skip => .skip
  | .shift => .shift
  | .chkSum => .chkSum
  | .conv => .conv
  | .done => .done

/-! ## The decoder -/

/-- Format `H` (R72). A write to `0x00` stays `WR` here; its command word is decoded by `decodeCommand`. -/
def decodeHostAccess (w : BitVec 42) : Except DecodeReject Instr :=
  if w.getLsbD 41 then
    if w.getLsbD 40 then .ok (.wr (w.extractLsb' 32 8) (w.extractLsb' 0 32))
    else .ok (.rd (w.extractLsb' 32 8))
  else .error .noHostAccess

/-- Format `C` (R61): bit 0 alone decides; bits 31:1 are ignored. -/
def decodeCommand (w : BitVec 32) : Instr :=
  if w.getLsbD 0 then .start else .nop

/-- Format `S` (R62). -/
def decodeSequencer (w : BitVec 4) : Except DecodeReject Instr :=
  (sequencerOfCode w).map engineOp

/-- The one-bit port word of `RESET` (R72). -/
def decodeResetPort (w : BitVec 1) : Except DecodeReject Instr :=
  if w.getLsbD 0 then .ok .reset else .error .resetNotAsserted

/-- The operation a word selects. -/
def decode : OpWord → Except DecodeReject Instr
  | .hostAccess w => decodeHostAccess w
  | .command w => .ok (decodeCommand w)
  | .sequencer w => decodeSequencer w
  | .resetPort w => decodeResetPort w

/-! ## The encoder -/

/-- The host access word of the four host ports (R72). -/
def hostAccessWord (valid write : Bool) (a : BitVec 8) (v : Word) : BitVec 42 :=
  BitVec.ofBool valid ++ BitVec.ofBool write ++ a ++ v

/-- The word that selects an operation, ignored bits written 0 (R61, R62, R72). -/
def encode : Instr → OpWord
  | .rd a => .hostAccess (hostAccessWord true false a 0)
  | .wr a v => .hostAccess (hostAccessWord true true a v)
  | .nop => .command 0
  | .start => .command 1
  | .idle => .sequencer 0
  | .drvOut => .sequencer 1
  | .drvLow => .sequencer 2
  | .hold => .sequencer 3
  | .relIn => .sequencer 4
  | .poll => .sequencer 5
  | .chkCnt => .sequencer 6
  | .skip => .sequencer 7
  | .shift => .sequencer 8
  | .chkSum => .sequencer 9
  | .conv => .sequencer 10
  | .done => .sequencer 11
  | .reset => .resetPort 1

/-! ## The opcode table's numbering -/

/-- The word of the format that has `nbits` bits when counted in whole bytes, from the number `w`: 48 for the 42-bit
format `H`, 32 for `C`, 8 for the 4-bit `S` (the exact widths 42 and 4 are accepted too), 1 for the reset port.
In whole bytes the reset port has 8 bits as `S` has, and the number 1 then means `DRV_OUT` (log 10). -/
def opWordOfNumber (nbits w : Nat) : Except DecodeReject OpWord :=
  if nbits = 1 then
    if w < 2 ^ 1 then .ok (.resetPort (BitVec.ofNat 1 w)) else .error .bitsAboveFormat
  else if nbits = 4 ∨ nbits = 8 then
    if w < 2 ^ 4 then .ok (.sequencer (BitVec.ofNat 4 w)) else .error .bitsAboveFormat
  else if nbits = 32 then
    if w < 2 ^ 32 then .ok (.command (BitVec.ofNat 32 w)) else .error .bitsAboveFormat
  else if nbits = 42 ∨ nbits = 48 then
    if w < 2 ^ 42 then .ok (.hostAccess (BitVec.ofNat 42 w)) else .error .bitsAboveFormat
  else .error .noSuchFormat

/-- The table's width of a word in bits and its number. -/
def numberOfOpWord : OpWord → Nat × Nat
  | .hostAccess w => (48, w.toNat)
  | .command w => (32, w.toNat)
  | .sequencer w => (8, w.toNat)
  | .resetPort w => (1, w.toNat)

/-- The operation the decoder reads from the number `w` of `nbits` bits, as spec/opcode_table.json numbers them. -/
def decodeTableWord (nbits w : Nat) : Option Instr :=
  match opWordOfNumber nbits w with
  | .ok word => (decode word).toOption
  | .error _ => none

/-! ## What a step decodes (R69) -/

/-- The host operation of a step (R72, R80): a `WR` to `0x00` is decoded further as `NOP` or `START` (R61). -/
def hostOp (p : Ports) : Option Instr :=
  match decodeHostAccess (hostAccessWord p.hValid p.hWrite p.hAddr p.hWdata) with
  | .ok (.wr a v) => if a = 0 then some (decodeCommand v) else some (.wr a v)
  | .ok i => some i
  | .error _ => none

/-- The host read of a step, if its access is one: the only host access a reset step answers (R160). -/
def hostRead (p : Ports) : Option Instr :=
  match hostOp p with
  | some (.rd a) => some (.rd a)
  | _ => none

/-- The operations of one step, in the order of R54: in a reset step the host read and `RESET`; otherwise the host
operation, if any, and the engine operation of the pre-step `STATE`. -/
def cycleOps (p : Ports) (q : Sequencer) : List Instr :=
  if p.rst then (hostRead p).toList ++ [.reset]
  else (hostOp p).toList ++ [engineOp q]

end Sys2Proof
end

