-- ==== Sys2Proof/Machine/State.lean ====
section
/-! DEFINITION. The state of the engine (R10), the reasons a step can stop, and the state after reset (R32). -/

namespace Sys2Proof.Machine

/-- One PulseTrain buffer (R21): entry `i` for `i < CAP`. It has the 64 places of the address window; the entries at
`CAP` and above are no state of the machine, hold 0 and are never reached (log 9). -/
abbrev Buffer := Vector Word 64

/-- The registers of R10, and after them the model's own fields (INVENTORY.md, State). -/
structure State where
  /-- `STATE`, the sequencer: the operation the next step executes (R11, R29). -/
  seq : Sequencer
  /-- `ERR`, the error code of the last finished read (R12). -/
  err : ErrCode
  /-- `VARIANT`, loaded by reset only (R13). -/
  variant : Variant
  /-- `DIR`, true is output (R14). -/
  dir : Bool
  /-- `DOUT`, the driven level, true is high (R15). -/
  dout : Bool
  /-- `PREV`, the level the polling loop last observed (R16). -/
  prev : Bool
  /-- `ANCHOR`, the timestamp of the last observed transition (R17). -/
  anchor : Word
  /-- `T0`, the timestamp at the start of the hold (R18). -/
  t0 : Word
  /-- `ITER`, the polling iterations of this read (R19). -/
  iter : Word
  /-- `LCNT`, the number of recorded low phases (R20). -/
  lcnt : Byte
  /-- `HCNT`, the number of recorded high phases (R20). -/
  hcnt : Byte
  /-- `LOW[]`, the low durations (R21). -/
  low : Buffer
  /-- `HIGH[]`, the high durations (R21). -/
  high : Buffer
  /-- `SKIPN`, the number of leading high phases skipped (R26). -/
  skipn : Byte
  /-- `ZFIRST`, whether the first used duration is forced to zero (R26). -/
  zfirst : Bool
  /-- `BITIDX`, the number of frame bits assembled (R26). -/
  bitidx : BitVec 6
  /-- `B0`, humidity-high (R23). -/
  b0 : Byte
  /-- `B1`, humidity-low (R23). -/
  b1 : Byte
  /-- `B2`, temperature-high (R23). -/
  b2 : Byte
  /-- `B3`, temperature-low (R23). -/
  b3 : Byte
  /-- `B4`, the checksum byte (R23). -/
  b4 : Byte
  /-- `SUM`, the computed checksum (R23). -/
  sum : Byte
  /-- `TEMP`, hundredths of a degree Fahrenheit, two's complement (R24). -/
  temp : Word
  /-- `HUM`, tenths of a percent (R25). -/
  hum : Word
  /-- MODEL (log 1): the build-time parameters of R6. No step changes them. -/
  params : Params
  /-- MODEL (log 3): the input ports sampled by the step being executed (R30). -/
  ports : Ports
  /-- MODEL (log 4): the output port `h_rdata`, none in a step without a host read (R48). -/
  hRdata : Option Word
  /-- MODEL (log 3): the inputs of the coming steps, the next one first. -/
  env : List Ports
  /-- MODEL (log 3): the number of steps taken; the argument of every free value. -/
  tick : Nat
deriving DecidableEq, Repr

/-- Why a step can stop with a fault. Both stand for an access to something the spec says does not exist, in states
that no run reaches (log 7). -/
inductive Fault where
  /-- Raised by `SHIFT` with `BITIDX` at 40 or more: it would write a frame byte `B[k]` with `k > 4`; R26 has `BITIDX`
  from 0 to 40, and there are the bytes `B0` to `B4` only. Safe: the rules keep `BITIDX` below 40 in `SHIFT`. -/
  | noSuchFrameByte
  /-- Raised by `SHIFT` when `SKIPN + BITIDX` is `CAP` or more: `HIGH[i]` exists for `i < CAP` only (R21). Safe: R113
  says the decoder never reads an entry the capture did not write. -/
  | noSuchBufferEntry
deriving DecidableEq, Repr

/-- Why a step can be refused. -/
inductive Refusal where
  /-- An operation whose meaning is not modelled. No operation is: every arm of exec has its meaning. Safe. -/
  | notModelled (mnemonic : String)
deriving DecidableEq, Repr

/-- The state after a reset step with the given parameters and SensorVariant (R32): every register 0 but `VARIANT`.
The model's own fields are at rest: no input sampled, none scripted. -/
def State.afterReset (p : Params) (v : Variant) : State :=
  { seq := .idle, err := .noError, variant := v
    dir := false, dout := false, prev := false
    anchor := 0, t0 := 0, iter := 0, lcnt := 0, hcnt := 0
    low := Vector.replicate 64 0, high := Vector.replicate 64 0
    skipn := 0, zfirst := false, bitidx := 0
    b0 := 0, b1 := 0, b2 := 0, b3 := 0, b4 := 0, sum := 0
    temp := 0, hum := 0
    params := p, ports := Ports.quiet, hRdata := none, env := [], tick := 0 }

/-- The machine right after reset (R32), with the default parameters (log 1) and the strap at 0 (log 2). -/
def State.reset : State := State.afterReset Params.default .type11

end Sys2Proof.Machine
end

