-- ==== Sys2Proof/Machine/Operands.lean ====
section
/-! DEFINITION. The operands the operations read: time differences, the selected durations, the fields assembled
from the frame (R67), and the narrowing of an exact number to a register. -/

namespace Sys2Proof.Machine

/-- A register of `w` bits written with the number `v`. "A result is truncated to the stated width only where the
rule says" so (00_scope.md section 6): where `v` does not fit, the value is free (log 8). -/
def narrow (tick w : Nat) (v : Int) : BitVec w :=
  if 0 ≤ v ∧ v.toNat < 2 ^ w then BitVec.ofInt w v else Config.unstated tick w v

/-- The time from `since` to `now` in microseconds, modulo 2^32 (R92, R100). -/
def elapsedUs (now since : Word) : Word := now - since

/-- Whether the host operation of this step is `START` (R80, R88). -/
def startNow (p : Ports) : Bool := decide (hostOp p = some .start)

/-- `CAP` (R6). -/
def State.cap (s : State) : Nat := s.params.cap

/-- `POLL_BUDGET` (R6). -/
def State.pollBudget (s : State) : Nat := s.params.pollBudget

/-- `LOW[i]`, where the entry exists (R21). -/
def State.lowAt (s : State) (i : Nat) : Option Word :=
  if i < s.cap then s.low[i]? else none

/-- `HIGH[i]`, where the entry exists (R21). -/
def State.highAt (s : State) (i : Nat) : Option Word :=
  if i < s.cap then s.high[i]? else none

/-- `s[j]`, the selected duration `j` (R113): 0 for the first one when `ZFIRST` is 1 (R115), else `HIGH[SKIPN + j]`;
none where that entry does not exist. -/
def State.selectedDuration (s : State) (j : Nat) : Option Word :=
  if j = 0 ∧ s.zfirst = true then some 0 else s.highAt (s.skipn.toNat + j)

/-- The duration-to-bit code (R68): 1 from 30 microseconds on, an unsigned comparison. -/
def durationBit (d : Word) : Bool := decide (Config.bitThresholdUs ≤ d.toNat)

/-- A byte shifted left by one bit with `bit` as its low bit, cut to 8 bits (R112). -/
def shiftInBit (b : Byte) (bit : Bool) : Byte :=
  (b <<< 1) ||| (BitVec.ofBool bit).setWidth 8

/-- Frame byte `B[k]`, `0 ≤ k ≤ 4` (R23). -/
def State.frameByte (s : State) (k : Fin 5) : Byte :=
  match k with
  | 0 => s.b0
  | 1 => s.b1
  | 2 => s.b2
  | 3 => s.b3
  | 4 => s.b4

/-- `sum`, the low 8 bits of the exact sum of the four data bytes (R67, R121). -/
def checksum (b0 b1 b2 b3 : Byte) : Byte :=
  BitVec.ofNat 8 ((b0.toNat + b1.toNat + b2.toNat + b3.toNat) % 256)

/-- `hum10`, the humidity in tenths of a percent (R125 to R127): `B0` percent for `Type11`, the 16-bit number
`B0 B1` for every other variant. -/
def humidityTenths (v : Variant) (b0 b1 : Byte) : Nat :=
  if v = .type11 then b0.toNat * 10 else b0.toNat * 256 + b1.toNat

/-- `mag10`, the temperature magnitude in tenths of a degree Celsius (R125 to R127): all eight bits of `B2` for
`Type11`, the 15-bit number of `B2` without its top bit and `B3` for every other variant. -/
def magnitudeTenths (v : Variant) (b2 b3 : Byte) : Nat :=
  if v = .type11 then b2.toNat * 10 else (b2 &&& 0x7F).toNat * 256 + b3.toNat

/-- `c10`, the signed temperature in tenths of a degree Celsius (R128): negated when bit `0x80` of `B2` is set, for
both variants. -/
def celsiusTenths (v : Variant) (b2 b3 : Byte) : Int :=
  if b2.getLsbD 7 then -(magnitudeTenths v b2 b3 : Int) else (magnitudeTenths v b2 b3 : Int)

/-- Hundredths of a degree Fahrenheit from tenths of a degree Celsius (R129). -/
def fahrenheitHundredths (c10 : Int) : Int := c10 * 18 + 3200

end Sys2Proof.Machine
end

