-- ==== Sys2Proof/Machine/Flags.lean ====
section
/-! DEFINITION. The status flags (R27), the output ports that are functions of the registers (R30), and the words of
the host register map (R42 to R47). -/

namespace Sys2Proof.Machine

/-- `DONE_F` (R27). -/
def State.doneF (s : State) : Bool := decide (s.seq = .done)

/-- `BUSY` (R27): `STATE` is neither `IDLE` nor `DONE`. -/
def State.busy (s : State) : Bool := decide (s.seq ≠ .idle ∧ s.seq ≠ .done)

/-- `OK` (R27): `DONE` without an error. -/
def State.okF (s : State) : Bool := decide (s.seq = .done ∧ s.err = .noError)

/-- Port `line_oe` = `DIR` (R31). -/
def State.lineOe (s : State) : Bool := s.dir

/-- Port `line_out` = `DOUT` (R31). -/
def State.lineOut (s : State) : Bool := s.dout

/-- Port `prio_hint` = `BUSY` (R152). -/
def State.prioHint (s : State) : Bool := s.busy

/-- Port `done` = `DONE_F` (R146). -/
def State.donePort (s : State) : Bool := s.doneF

/-- `STATUS` (R44). -/
def State.statusWord (s : State) : Word :=
  (0 : BitVec 20) ++ s.seq.code ++ (0 : BitVec 2) ++ s.err.code ++ (0 : BitVec 1) ++
    BitVec.ofBool s.okF ++ BitVec.ofBool s.doneF ++ BitVec.ofBool s.busy

/-- `VARIANT` (R42). -/
def State.variantWord (s : State) : Word := (0 : BitVec 31) ++ s.variant.code

/-- `FRAME0` (R42, R50): `B0` in the top byte. -/
def State.frame0Word (s : State) : Word := s.b0 ++ s.b1 ++ s.b2 ++ s.b3

/-- `FRAME1` (R42): `SUM` above `B4`. -/
def State.frame1Word (s : State) : Word := (0 : BitVec 16) ++ s.sum ++ s.b4

/-- `COUNTS` (R42): `HCNT` above `LCNT`. -/
def State.countsWord (s : State) : Word := (0 : BitVec 16) ++ s.hcnt ++ s.lcnt

/-- `DBG` (R45). -/
def State.dbgWord (s : State) : Word :=
  (0 : BitVec 12) ++ BitVec.ofBool s.dout ++ BitVec.ofBool s.dir ++ BitVec.ofBool s.prev ++
    BitVec.ofBool s.zfirst ++ (0 : BitVec 2) ++ s.bitidx ++ s.skipn

/-- `RegRead(a)`, the word the host reads at word address `a` (R42): a write-only or reserved address reads 0 (R43,
R47), the buffer windows begin at `0x40` and `0x80` and are `CAP` words long. -/
def State.regRead (s : State) (a : BitVec 8) : Word :=
  match a.toNat with
  | 0x00 => 0
  | 0x01 => s.statusWord
  | 0x02 => s.variantWord
  | 0x03 => s.temp
  | 0x04 => s.hum
  | 0x05 => s.frame0Word
  | 0x06 => s.frame1Word
  | 0x07 => s.countsWord
  | 0x08 => s.iter
  | 0x09 => s.dbgWord
  | 0x0A => s.anchor
  | 0x0B => s.t0
  | n =>
    if 0x80 ≤ n then (s.highAt (n - 0x80)).getD 0
    else if 0x40 ≤ n then (s.lowAt (n - 0x40)).getD 0
    else 0

end Sys2Proof.Machine
end

