-- ==== Sys2Proof/Machine/Ops.lean ====
section
/-! DEFINITION. The shared operations on the state: sampling the inputs, recording a phase, beginning a read, error
entry. There is no return from an error (R147): the next `START` clears `ERR`, which `State.beginRead` does. -/

namespace Sys2Proof.Machine

/-- The inputs of the next step: the next of the script, or free values past its end (R8, log 3). -/
def State.nextPorts (s : State) : Ports :=
  match s.env with
  | p :: _ => p
  | [] => Config.freePorts s.tick

/-- The clock edge: the inputs of this step are sampled, and `h_rdata` shows nothing until a read drives it. -/
def State.sample (s : State) : State :=
  { s with ports := s.nextPorts, env := s.env.tail, hRdata := none, tick := s.tick + 1 }

/-- `STATE <- q`. -/
def State.goto (s : State) (q : Sequencer) : State := { s with seq := q }

/-- Who receives errors: "one receiver of errors, the host"; no handler, no delegate, no guest (R148). -/
inductive ErrorReceiver where
  | host
deriving DecidableEq, Repr

/-- The receiver of an error: the host, for either error; no level or register of the machine chooses it (R148). -/
def errorReceiver (_ : ErrCode) : ErrorReceiver := .host

/-- An error handed to its receiver: the host gets it in `ERR`, which it reads in `STATUS` bits 5:4 (R44, R143). -/
def State.deliverError (s : State) (e : ErrCode) : ErrorReceiver → State
  | .host => { s with err := e }

/-- Error entry, `raise e` (R143): `ERR` and `STATE <- DONE` together, and nothing else. -/
def State.raise (s : State) (e : ErrCode) : State := (s.deliverError e (errorReceiver e)).goto .done

/-- Whether the engine is at rest and accepts a `START` (R82). -/
def State.atRest (s : State) : Bool := decide (s.seq = .idle ∨ s.seq = .done)

/-- The effects of an accepted `START` (R82): every register of a read at 0, `STATE <- DRV_OUT`. `VARIANT`, `DIR` and
`DOUT` are not written. -/
def State.beginRead (s : State) : State :=
  { s with
    err := .noError, prev := false, anchor := 0, t0 := 0, iter := 0, lcnt := 0, hcnt := 0
    low := Vector.replicate 64 0, high := Vector.replicate 64 0
    skipn := 0, zfirst := false, bitidx := 0
    b0 := 0, b1 := 0, b2 := 0, b3 := 0, b4 := 0, sum := 0
    temp := 0, hum := 0, seq := .drvOut }

/-- The operation `START` (R82): accepted at rest, ignored completely while busy. -/
def State.acceptStart (s : State) : State := if s.atRest then s.beginRead else s

/-- The engine at rest (R88): the effects of R82 when the host operation of this step is `START`, else nothing. -/
def State.restStep (s : State) : State := if startNow s.ports then s.beginRead else s

/-- A low phase ended (R96): recorded unless the buffer is full (R98). -/
def State.recordLow (s : State) (dur : Word) : State :=
  if s.lcnt.toNat < s.cap then
    { s with low := s.low.setIfInBounds s.lcnt.toNat dur, lcnt := s.lcnt + 1 }
  else s

/-- A high phase ended (R97): recorded unless the buffer is full (R98). -/
def State.recordHigh (s : State) (dur : Word) : State :=
  if s.hcnt.toNat < s.cap then
    { s with high := s.high.setIfInBounds s.hcnt.toNat dur, hcnt := s.hcnt + 1 }
  else s

/-- An observed transition (R95): the phase that just ended is recorded with its duration (R100), then `ANCHOR` and
`PREV` take `ts` and the level, whether or not the duration was stored. -/
def State.observe (s : State) : State :=
  let dur := elapsedUs s.ports.ts s.anchor
  let r := if s.prev then s.recordHigh dur else s.recordLow dur
  { r with anchor := s.ports.ts, prev := s.ports.lineIn }

/-- One iteration counted: `ITER <- ITER + 1` (R19, R94). -/
def State.countIteration (s : State) : State :=
  { s with iter := narrow s.tick 32 ((s.iter.toNat : Int) + 1) }

/-- Leaving the loop (R99), on the values after the updates of the step: the phase target is met or the budget used up. -/
def State.leaveLoop (s : State) : State :=
  if Config.phaseTarget ≤ s.hcnt.toNat ∨ s.pollBudget ≤ s.iter.toNat then s.goto .chkCnt else s

/-- `B[k] <- b` (R23). -/
def State.setFrameByte (s : State) (k : Fin 5) (b : Byte) : State :=
  match k with
  | 0 => { s with b0 := b }
  | 1 => { s with b1 := b }
  | 2 => { s with b2 := b }
  | 3 => { s with b3 := b }
  | 4 => { s with b4 := b }

/-- A frame bit assembled (R112): shifted into byte `k`, `BITIDX` advanced, `CHK_SUM` after the fortieth. -/
def State.assembleBit (s : State) (k : Fin 5) (bit : Bool) : State :=
  let t := { s.setFrameByte k (shiftInBit (s.frameByte k) bit) with bitidx := s.bitidx + 1 }
  if s.bitidx.toNat + 1 = Config.frameBits then t.goto .chkSum else t

/-- `RESET` (R160): the registers as after reset with the strap of this step; the model's own fields stay. -/
def State.resetRegisters (s : State) : State :=
  { State.afterReset s.params (variantOfStrap s.ports.variantSel) with
    ports := s.ports, hRdata := s.hRdata, env := s.env, tick := s.tick }

end Sys2Proof.Machine
end

