-- ==== Sys2Proof/Machine/Capture.lean ====
section
/-! DEFINITION. Pulse capture (41_capture.md): `DRV_OUT`, `DRV_LOW`, `HOLD`, `REL_IN`, `POLL`. -/

namespace Sys2Proof.Machine

/-- `DRV_OUT` (R90). -/
def execDrvOut (s : State) : Host.Outcome State Fault Refusal :=
  .next { s with dir := true, seq := .drvLow }

/-- `DRV_LOW` (R91). -/
def execDrvLow (s : State) : Host.Outcome State Fault Refusal :=
  .next { s with dout := false, t0 := s.ports.ts, seq := .hold }

/-- `HOLD` (R92): left when 10000 microseconds of `ts` have passed since `T0`; there is no time-out (R171). -/
def execHold (s : State) : Host.Outcome State Fault Refusal :=
  .next (if Config.tStartUs ≤ (elapsedUs s.ports.ts s.t0).toNat then s.goto .relIn else s)

/-- `REL_IN` (R93): the line is released; the known level is low; a budget of 0 runs no iteration. -/
def execRelIn (s : State) : Host.Outcome State Fault Refusal :=
  .next { s with
    dir := false, prev := false, anchor := s.ports.ts
    seq := if s.pollBudget = 0 then .chkCnt else .poll }

/-- `POLL` (R94): a transition is observed exactly when the level differs from `PREV` (R95). -/
def execPoll (s : State) : Host.Outcome State Fault Refusal :=
  .next (if s.ports.lineIn ≠ s.prev then s.observe else s).countIteration.leaveLoop

end Sys2Proof.Machine
end

