-- ==== Sys2Proof/Machine/FrameDecode.lean ====
section
/-! DEFINITION. The frame decoder (42_decode.md, 43_checksum.md, 44_convert.md): `CHK_CNT`, `SKIP`, `SHIFT`,
`CHK_SUM`, `CONV`. -/

namespace Sys2Proof.Machine

/-- `CHK_CNT` (R110): at least 40 recorded high phases, else `invalidNumberOfPulses`. -/
def execChkCnt (s : State) : Host.Outcome State Fault Refusal :=
  .next (if s.hcnt.toNat < Config.minPulses then s.raise .invalidNumberOfPulses else s.goto .skip)

/-- `SKIP` (R111): `HCNT - 40` leading high phases are dropped; exactly 40 force the first duration to zero. -/
def execSkip (s : State) : Host.Outcome State Fault Refusal :=
  .next { s with
    skipn := narrow s.tick 8 ((s.hcnt.toNat : Int) - Config.frameBits)
    zfirst := decide (s.hcnt.toNat = Config.frameBits)
    seq := .shift }

/-- `SHIFT` (R112): the bit of the selected duration `BITIDX` goes into byte `BITIDX div 8`. -/
def execShift (s : State) : Host.Outcome State Fault Refusal :=
  if h : s.bitidx.toNat < Config.frameBits then
    match s.selectedDuration s.bitidx.toNat with
    | some d =>
      .next (s.assembleBit ⟨s.bitidx.toNat / 8, by simp only [Config.frameBits] at h; omega⟩ (durationBit d))
    | none => .fault .noSuchBufferEntry
  else .fault .noSuchFrameByte

/-- `CHK_SUM` (R120): `SUM` is written in both cases; a sum that differs from `B4` raises `invalidChecksum`. -/
def execChkSum (s : State) : Host.Outcome State Fault Refusal :=
  let sum := checksum s.b0 s.b1 s.b2 s.b3
  let t := { s with sum := sum }
  .next (if sum ≠ s.b4 then t.raise .invalidChecksum else t.goto .conv)

/-- `CONV` (R125): `TEMP`, `HUM` and `STATE <- DONE` in one step. -/
def execConv (s : State) : Host.Outcome State Fault Refusal :=
  .next { s with
    temp := BitVec.ofInt 32 (fahrenheitHundredths (celsiusTenths s.variant s.b2 s.b3))
    hum := BitVec.ofNat 32 (humidityTenths s.variant s.b0 s.b1)
    seq := .done }

end Sys2Proof.Machine
end

