-- ==== Sys2Proof/Machine/HostAccess.lean ====
section
/-! DEFINITION. The host operations (40_command.md): `RD`, `WR`, `NOP`, `START`. -/

namespace Sys2Proof.Machine

/-- `RD a` (R83): `h_rdata` shows the word of R42 computed from the pre-step state; no register changes (R48). -/
def execRd (a : BitVec 8) (s : State) : Host.Outcome State Fault Refusal :=
  .next { s with hRdata := some (s.regRead a) }

/-- `WR a, v` (R84): a write to `0x00` is the command `START` or `NOP` by its bit 0; any other write is ignored (R49). -/
def execWr (a : BitVec 8) (v : Word) (s : State) : Host.Outcome State Fault Refusal :=
  .next (if a = 0 ∧ v.getLsbD 0 = true then s.acceptStart else s)

/-- `NOP` (R81): nothing. -/
def execNop (s : State) : Host.Outcome State Fault Refusal := .next s

/-- `START` (R82). -/
def execStart (s : State) : Host.Outcome State Fault Refusal := .next s.acceptStart

end Sys2Proof.Machine
end

