-- ==== Sys2Proof/Machine/Rest.lean ====
section
/-! DEFINITION. The engine at rest and reset: `IDLE`, `DONE` (R88), `RESET` (R160). -/

namespace Sys2Proof.Machine

/-- `IDLE` (R88). -/
def execIdle (s : State) : Host.Outcome State Fault Refusal := .next s.restStep

/-- `DONE` (R88). -/
def execDone (s : State) : Host.Outcome State Fault Refusal := .next s.restStep

/-- `RESET` (R160). -/
def execReset (s : State) : Host.Outcome State Fault Refusal := .next s.resetRegisters

end Sys2Proof.Machine
end

