-- ==== Sys2Proof/Machine/Dispatch.lean ====
section
/-! DEFINITION. One arm per operation. -/

namespace Sys2Proof.Machine

def exec (i : Instr) (s : State) : Host.Outcome State Fault Refusal :=
  match i with
  | .rd a => Sys2Proof.Machine.execRd a s
  | .wr a v => Sys2Proof.Machine.execWr a v s
  | .nop => Sys2Proof.Machine.execNop s
  | .start => Sys2Proof.Machine.execStart s
  | .idle => Sys2Proof.Machine.execIdle s
  | .drvOut => Sys2Proof.Machine.execDrvOut s
  | .drvLow => Sys2Proof.Machine.execDrvLow s
  | .hold => Sys2Proof.Machine.execHold s
  | .relIn => Sys2Proof.Machine.execRelIn s
  | .poll => Sys2Proof.Machine.execPoll s
  | .chkCnt => Sys2Proof.Machine.execChkCnt s
  | .skip => Sys2Proof.Machine.execSkip s
  | .shift => Sys2Proof.Machine.execShift s
  | .chkSum => Sys2Proof.Machine.execChkSum s
  | .conv => Sys2Proof.Machine.execConv s
  | .done => Sys2Proof.Machine.execDone s
  | .reset => Sys2Proof.Machine.execReset s

end Sys2Proof.Machine
end

