-- ==== Sys2Proof/Machine/Cycle.lean ====
section
/-! DEFINITION. One clock step: the decoded operations of the step run in the order of R54 on the sampled state; and
placing a word where the next step finds it. -/

namespace Sys2Proof.Machine

/-- The operations of a step, one after the other, stopping at a fault or a refusal. Running them in this order is
the simultaneous update of R54 (log 5). -/
def runOps : List Instr → State → Host.Outcome State Fault Refusal
  | [], s => .next s
  | i :: is, s =>
    match exec i s with
    | .next t => runOps is t
    | .fault r => .fault r
    | .refused r => .refused r

/-- One rising edge of `clk` (R7, R54): the inputs are sampled, then the operations decoded from them and from the
pre-step `STATE` run (R69). -/
def cycle (s : State) : Host.Outcome State Fault Refusal :=
  runOps (cycleOps s.sample.ports s.seq) s.sample

/-- The inputs the next step would sample, or quiet ones where the script is empty. -/
def State.scriptedPorts (s : State) : Ports := s.env.headD Ports.quiet

/-- `p` becomes the input of the next step. -/
def State.withNextPorts (s : State) (p : Ports) : State := { s with env := p :: s.env.tail }

/-- The word placed where the next step decodes it: a host access or a command on the host port, a sequencer code in
`STATE` with the host port idle, the reset port word on `rst` (log 12). A reserved code cannot be placed. -/
def placeOpWord (word : OpWord) (s : State) : State :=
  let p := s.scriptedPorts
  match word with
  | .hostAccess w =>
    s.withNextPorts { p with
      rst := false, hValid := w.getLsbD 41, hWrite := w.getLsbD 40
      hAddr := w.extractLsb' 32 8, hWdata := w.extractLsb' 0 32 }
  | .command w =>
    s.withNextPorts { p with rst := false, hValid := true, hWrite := true, hAddr := 0, hWdata := w }
  | .sequencer c =>
    match sequencerOfCode c with
    | .ok q => (s.goto q).withNextPorts { p with rst := false, hValid := false }
    | .error _ => s
  | .resetPort b => s.withNextPorts { p with rst := b.getLsbD 0 }

/-- The word numbered `w` in `nbits` bits placed where the next step decodes it; a number that is no word is not
placed. -/
def placeTableWord (s : State) (nbits w : Nat) : State :=
  match opWordOfNumber nbits w with
  | .ok word => placeOpWord word s
  | .error _ => s

end Sys2Proof.Machine
end

