-- ==== Sys2Proof/Machine/Step.lean ====
section
/-! DEFINITION. The step, and the placing of the next operation. -/

namespace Sys2Proof.Machine

/-- One step of the machine: one rising edge of `clk`. -/
def step (s : State) : Host.Outcome State Fault Refusal := cycle s

/-- `s` with the operation word `w` of `nbits` bits where the next step decodes it. -/
def State.withFetchWord (s : State) (nbits w : Nat) : State := placeTableWord s nbits w

end Sys2Proof.Machine
end

