-- ==== Sys2Proof/Machine/Script.lean ====
section
/-! DEFINITION. Host programs in the script form of R74, the read transaction `READ` and `READ.D` (R85), and the
observable result of a read (R86). They drive the step; the step does not use them. -/

namespace Sys2Proof.Machine

/-- What the line and the time source show in one step of a script (R74: the trace beside the script). -/
structure LineSample where
  ts : Word
  lineIn : Bool
deriving DecidableEq, Repr

/-- The host's access in one step (R80). -/
inductive HostAccess where
  | none
  | read (a : BitVec 8)
  | write (a : BitVec 8) (v : Word)
deriving DecidableEq, Repr

/-- The input ports of a step without reset in which the host makes the access `x` (R72). -/
def HostAccess.toPorts (x : HostAccess) (e : LineSample) : Ports :=
  match x with
  | .none => { Ports.quiet with ts := e.ts, lineIn := e.lineIn }
  | .read a => { Ports.quiet with ts := e.ts, lineIn := e.lineIn, hValid := true, hAddr := a }
  | .write a v =>
    { Ports.quiet with ts := e.ts, lineIn := e.lineIn, hValid := true, hWrite := true, hAddr := a, hWdata := v }

/-- A host program in progress: the words its reads returned, oldest first, the machine, and the samples to come. -/
structure HostRun where
  words : List Word
  state : State
  rest : List LineSample

/-- One step with the access `x`; none when the samples have run out or the step did not answer a next state. -/
def hostStep (x : HostAccess) (r : HostRun) : Option HostRun :=
  match r.rest with
  | [] => none
  | e :: es =>
    match step (r.state.withNextPorts (x.toPorts e)) with
    | .next t => some { words := r.words ++ t.hRdata.toList, state := t, rest := es }
    | .fault _ => none
    | .refused _ => none

/-- The accesses of a list, one a step. -/
def hostSteps : List HostAccess → HostRun → Option HostRun
  | [], r => some r
  | x :: xs, r => (hostStep x r).bind (hostSteps xs)

/-- One step with `RD a`: the word that `h_rdata` shows in it (R83), and the program after it. -/
def readWord (a : BitVec 8) (r : HostRun) : Option (Word × HostRun) :=
  (hostStep (.read a) r).bind fun t => t.state.hRdata.map fun w => (w, t)

/-- `WAIT DONE` (R74): `RD 0x01` repeated until the value has bit 1 set, at most `n` times; that value (the `s` of R85)
and the program after it. -/
def waitDone : Nat → HostRun → Option (Word × HostRun)
  | 0, _ => none
  | n + 1, r =>
    (readWord 0x01 r).bind fun p => if p.1.getLsbD 1 then some p else waitDone n p.2

/-- The addresses of the debug window (R46) in the order of R85: `FRAME0`, `FRAME1`, `COUNTS`, `ITER`, `DBG`,
`ANCHOR`, `T0`, `LOW[0..CAP-1]`, `HIGH[0..CAP-1]`. -/
def debugWindow (cap : Nat) : List (BitVec 8) :=
  [0x05, 0x06, 0x07, 0x08, 0x09, 0x0A, 0x0B] ++
    (List.range cap).map (fun i => BitVec.ofNat 8 (0x40 + i)) ++
    (List.range cap).map (fun i => BitVec.ofNat 8 (0x80 + i))

/-- The result of a read (R85): `Ok (temperature °F, humidity %)` as exact rationals, or one of the two errors. -/
inductive ReadResult where
  | ok (temperature humidity : Rat)
  | error (e : ErrCode)
deriving DecidableEq, Repr

/-- The success of a read (R85): the word of `TEMP` as a two's complement integer by 100, the word of `HUM` by 10. -/
def okOfWords (temp hum : Word) : ReadResult := .ok ((temp.toInt : Rat) / 100) ((hum.toNat : Rat) / 10)

/-- What `READ` does after the wait loop gave the status `s` (R85): two more reads on success, none on an error; none
for the reserved code 3. -/
def finishRead (s : Word) (r : HostRun) : Option (ReadResult × HostRun) :=
  match (s.extractLsb' 4 2).toNat with
  | 0 =>
    (readWord 0x03 r).bind fun temp =>
      (readWord 0x04 temp.2).map fun hum => (okOfWords temp.1 hum.1, hum.2)
  | 1 => some (.error .invalidNumberOfPulses, r)
  | 2 => some (.error .invalidChecksum, r)
  | _ => none

/-- `READ` (R85): `START`, the wait loop, and the returned result. The wait loop may use every sample there is. -/
def runRead (r : HostRun) : Option (ReadResult × HostRun) :=
  (hostStep (.write 0x00 1) r).bind fun r1 =>
    (waitDone r1.rest.length r1).bind fun p => finishRead p.1 p.2

/-- `RD` of the debug window, in the order of R85. -/
def readDebugWindow (r : HostRun) : Option HostRun :=
  hostSteps ((debugWindow r.state.cap).map .read) r

/-- `READ.D` (R85): `READ`, then the debug window; "the returned value is that of `READ`". -/
def runReadD (r : HostRun) : Option (ReadResult × HostRun) :=
  (runRead r).bind fun p => (readDebugWindow p.2).map fun t => (p.1, t)

/-- A line of a host script (R74). -/
inductive HostLine where
  | wr (a : BitVec 8) (v : Word)
  | rd (a : BitVec 8)
  /-- `IDLE n`: `n` steps without an access. -/
  | idle (n : Nat)
  /-- `START`: `WR 0x00, 1`. -/
  | start
  | waitDone
  /-- `READ` as the line of R74: `START`, `WAIT DONE`, `RD 0x01`, `RD 0x03`, `RD 0x04` (log 15). -/
  | read
  /-- `READ.D` as the line of R74: that `READ` and then `RD` of the debug window. -/
  | readD
deriving DecidableEq, Repr

/-- The line `READ` of R74: three reads after the wait loop, whatever the status. `runRead` is the `READ` of R85. -/
def runReadLine (r : HostRun) : Option HostRun :=
  (hostStep (.write 0x00 1) r).bind fun r1 =>
    (waitDone r1.rest.length r1).bind fun p => hostSteps [.read 0x01, .read 0x03, .read 0x04] p.2

/-- A line of a script, run on the machine. -/
def HostLine.run (l : HostLine) (r : HostRun) : Option HostRun :=
  match l with
  | .wr a v => hostStep (.write a v) r
  | .rd a => hostStep (.read a) r
  | .idle n => hostSteps (List.replicate n .none) r
  | .start => hostStep (.write 0x00 1) r
  | .waitDone => (Sys2Proof.Machine.waitDone r.rest.length r).map Prod.snd
  | .read => runReadLine r
  | .readD => (runReadLine r).bind readDebugWindow

/-- The result that the words of `STATUS`, `TEMP` and `HUM` stand for (R85); none for the reserved code 3. -/
def resultOfWords (status temp hum : Word) : Option ReadResult :=
  match (status.extractLsb' 4 2).toNat with
  | 0 => some (okOfWords temp hum)
  | 1 => some (.error .invalidNumberOfPulses)
  | 2 => some (.error .invalidChecksum)
  | _ => none

/-- The observable result of a finished read, the triple (`ERR`, `TEMP`, `HUM`) of a final state (R86); none where
the state is no final state. -/
def State.readResult (s : State) : Option ReadResult :=
  if s.seq = .done then
    match s.err with
    | .noError => some (okOfWords s.temp s.hum)
    | e => some (.error e)
  else none

end Sys2Proof.Machine
end

