-- ==== Sys2Proof/Safety.lean ====
section
/-! DEFINITION. What counts as a good state and a safe run, in the terms the claims use: the phases of a read, the
invariant of the registers that the rules of 10_state.md state, runs under given inputs, and the decoder as one
function of the captured train (R114, R116). -/

namespace Sys2Proof.Machine

/-! ## Phases of a read -/

/-- `STATE` values in which no iteration of the loop has run since reset or `START` (R87). -/
def beforeLoop : Sequencer → Bool
  | .idle | .drvOut | .drvLow | .hold | .relIn => true
  | _ => false

/-- `STATE` values in which the engine drives the line: from the end of `DRV_OUT` to the end of `REL_IN` (R103). -/
def driving : Sequencer → Bool
  | .drvLow | .hold | .relIn => true
  | _ => false

/-- `STATE` values after the loop has ended (R87). -/
def afterLoop : Sequencer → Bool
  | .chkCnt | .skip | .shift | .chkSum | .conv | .done => true
  | _ => false

/-- The pulse-count check passed in this read (R110). -/
def State.passedCount (s : State) : Bool :=
  match s.seq with
  | .skip | .shift | .chkSum | .conv => true
  | .done => decide (s.err ≠ .invalidNumberOfPulses)
  | _ => false

/-- `SKIP` ran in this read (R111). -/
def State.passedSkip (s : State) : Bool := s.passedCount && decide (s.seq ≠ .skip)

/-- The forty `SHIFT` steps ran in this read (R112). -/
def State.passedShift (s : State) : Bool := s.passedSkip && decide (s.seq ≠ .shift)

/-- `CHK_SUM` ran in this read (R120). -/
def State.passedSum (s : State) : Bool := s.passedShift && decide (s.seq ≠ .chkSum)

/-! ## Buffers -/

/-- The canonical form of a buffer of which `n` entries are recorded: every entry from `n` on is 0 (R21). -/
def Buffer.zeroFrom (b : Buffer) (n : Nat) : Prop := ∀ i : Nat, n ≤ i → b[i]?.getD 0 = 0

/-- How many of the assembled bits lie in byte `k` (R112). -/
def bitsInByte (bitidx k : Nat) : Nat := min 8 (bitidx - 8 * k)

/-! ## The invariant -/

/-- What holds of the registers at every step: the ranges, relations and write disciplines of 10_state.md, as the rules
of the operations keep them. -/
structure Inv (s : State) : Prop where
  /-- R6: the parameters are in their ranges. -/
  params_wf : s.params.wellFormed = true
  /-- R15: `DOUT` is 0 at every step. -/
  line_low : s.dout = false
  /-- R14, R103: the line is driven in exactly these states. -/
  dir_phase : s.dir = driving s.seq
  /-- R20: `HCNT` is at most `CAP` and 41. -/
  hcnt_le : s.hcnt.toNat ≤ min s.cap 41
  /-- R22: the alternation invariant. -/
  alternation : s.lcnt.toNat = min (s.hcnt.toNat + s.prev.toNat) s.cap
  /-- R19: `ITER` is at most the budget. -/
  iter_le : s.iter.toNat ≤ s.pollBudget
  /-- R99: the loop goes on only below the target and below the budget. -/
  polling : s.seq = .poll → s.hcnt.toNat < 41 ∧ s.iter.toNat < s.pollBudget
  /-- R93: nothing is captured before the loop. -/
  fresh : beforeLoop s.seq = true →
    s.lcnt = 0 ∧ s.hcnt = 0 ∧ s.iter = 0 ∧ s.prev = false
  /-- R32: in `IDLE`, which only reset enters, the timestamps are 0 too. -/
  idle_zero : s.seq = .idle → s.t0 = 0 ∧ s.anchor = 0
  /-- R99: the loop ended by its target or its budget. -/
  loop_end : afterLoop s.seq = true → s.hcnt.toNat = 41 ∨ s.iter.toNat = s.pollBudget
  /-- R21: entries at `LCNT` and above are 0. -/
  low_tail : Buffer.zeroFrom s.low s.lcnt.toNat
  /-- R21: entries at `HCNT` and above are 0. -/
  high_tail : Buffer.zeroFrom s.high s.hcnt.toNat
  /-- R110: after the check, 40 high phases or more; with its error, fewer. -/
  count_passed : s.passedCount = true → 40 ≤ s.hcnt.toNat
  /-- R110, R141. -/
  count_failed : s.seq = .done → s.err = .invalidNumberOfPulses → s.hcnt.toNat < 40
  /-- R26, R111: `SKIPN` and `ZFIRST` after `SKIP`, and 0 before it. -/
  skip_fields : if s.passedSkip = true then s.skipn.toNat = s.hcnt.toNat - 40 ∧ s.zfirst = decide (s.hcnt.toNat = 40)
    else s.skipn = 0 ∧ s.zfirst = false
  /-- R26, R112: `BITIDX` is below 40 in `SHIFT`, 40 after it, 0 before it. -/
  bit_index : if s.seq = .shift then s.bitidx.toNat < 40
    else if s.passedShift = true then s.bitidx.toNat = 40 else s.bitidx = 0
  /-- R66, R112, R114: the assembled bits, the latest lowest; the bits of a byte not yet reached are 0. -/
  frame_bits : ∀ (k : Fin 5) (p : Nat), p < 8 →
    (s.frameByte k).getLsbD p =
      (decide (p < bitsInByte s.bitidx.toNat k) &&
        durationBit ((s.selectedDuration (8 * k + bitsInByte s.bitidx.toNat k - 1 - p)).getD 0))
  /-- R23, R120: `SUM` is the sum of the data bytes after `CHK_SUM` and 0 before it. -/
  sum_value : s.sum = if s.passedSum = true then checksum s.b0 s.b1 s.b2 s.b3 else 0
  /-- R120: past the check without an error the sum is the checksum byte. -/
  sum_passed : s.passedSum = true → (s.err = .noError ↔ s.sum = s.b4)
  /-- R44: `ERR` is 0 until the step that raises an error. -/
  err_busy : s.seq ≠ .done → s.err = .noError
  /-- R24, R25, R133: no result before `DONE` and none on failure; R125: the converted frame on success. -/
  results : if s.seq = .done ∧ s.err = .noError then
      s.temp.toInt = fahrenheitHundredths (celsiusTenths s.variant s.b2 s.b3) ∧
      s.hum.toNat = humidityTenths s.variant s.b0 s.b1
    else s.temp = 0 ∧ s.hum = 0

/-! ## Runs -/

/-- The inputs of the step `k` steps from now: the script's, or the free ones past its end. -/
def State.portsAt (s : State) (k : Nat) : Ports :=
  match s.env[k]? with
  | some p => p
  | none => Config.freePorts (s.tick + k)

/-- No reset in the next `n` steps. -/
def State.noResetFor (s : State) (n : Nat) : Prop := ∀ k, k < n → (s.portsAt k).rst = false

/-- `n` steps, stopping at a fault or a refusal. -/
def run : Nat → State → Host.Outcome State Fault Refusal
  | 0, s => .next s
  | n + 1, s =>
    match step s with
    | .next t => run n t
    | .fault r => .fault r
    | .refused r => .refused r

/-- Two states that agree in every register of R10 and in the parameters. -/
def sameRegisters (s t : State) : Prop :=
  t = { s with ports := t.ports, hRdata := t.hRdata, env := t.env, tick := t.tick }

/-- The host accesses of a step that have no effect on any register (R49, R71, R81, R82): none at all, a read, a write
to another address than `CMD`, a command with bit 0 = 0, and a `START` while busy. -/
def inertAccess (s : State) (p : Ports) : Prop :=
  p.hValid = false ∨ p.hWrite = false ∨ p.hAddr ≠ 0 ∨ p.hWdata.getLsbD 0 = false ∨ s.busy = true

/-! ## The decoder as one function -/

/-- The selected duration `j` of a train of `hcnt` high phases (R111, R113, R115): the leading excess over 40 is
dropped, and of exactly 40 the first is forced to zero. -/
def trainDuration (hcnt : Nat) (high : Buffer) (j : Nat) : Word :=
  if hcnt = 40 ∧ j = 0 then 0 else high[hcnt - 40 + j]?.getD 0

/-- Byte `k` of the frame in closed form (R114). -/
def trainByte (hcnt : Nat) (high : Buffer) (k : Nat) : Nat :=
  ((List.range 8).map fun i => (durationBit (trainDuration hcnt high (8 * k + i))).toNat * 2 ^ (7 - i)).sum

/-- What a decode ends in: the error, `TEMP` and `HUM`, and the number of decoder steps it takes (R86, R89). -/
structure Decoded where
  err : ErrCode
  temp : Int
  hum : Nat
  steps : Nat
deriving DecidableEq, Repr

/-- The frame decoder as a function of the SensorVariant and the captured high durations alone (R116), in plain
numbers: the count check, the checksum (R120) and the conversion (R125 to R129). -/
def decodeTrain (v : Variant) (hcnt : Nat) (high : Buffer) : Decoded :=
  let b := trainByte hcnt high
  if hcnt < 40 then { err := .invalidNumberOfPulses, temp := 0, hum := 0, steps := 1 }
  else if (b 0 + b 1 + b 2 + b 3) % 256 ≠ b 4 then { err := .invalidChecksum, temp := 0, hum := 0, steps := 43 }
  else
    let magnitude := if v = .type11 then b 2 * 10 else b 2 % 128 * 256 + b 3
    { err := .noError
      temp := (if 128 ≤ b 2 then -(magnitude : Int) else magnitude) * 18 + 3200
      hum := if v = .type11 then b 0 * 10 else b 0 * 256 + b 1
      steps := 44 }

end Sys2Proof.Machine
end

