-- ==== Sys2Proof/Certificates/Slice0/Obligations.lean ====
section
/-! DEFINITION. The statements about the engine, from the numbered rules of spec/. A statement that rests on a choice
of the model says so and names the log entry. -/

open Sys2Proof Sys2Proof.Machine

/-! ## Encoding -/

/-- R72: format `H`, every port at every value: `h_valid` is bit 41, `h_write` bit 40, `h_addr` bits 39:32, `h_wdata`
bits 31:0; without `h_valid` there is no host operation. The one-bit word of `RESET` is the input `rst`. -/
def Obligations.HostAccessWordIsReadByItsFields : Prop :=
  (∀ (valid write : Bool) (a : BitVec 8) (v : Word),
    decode (.hostAccess (BitVec.ofNat 42 (valid.toNat * 2 ^ 41 + write.toNat * 2 ^ 40 + a.toNat * 2 ^ 32 + v.toNat))) =
      if valid = true then (if write = true then .ok (.wr a v) else .ok (.rd a)) else .error .noHostAccess) ∧
  decode (.resetPort 1) = .ok .reset ∧ decode (.resetPort 0) = .error .resetNotAsserted

/-- R61: bit 0 of the command word alone decides between `START` and `NOP`; bits 31:1 are ignored. -/
def Obligations.CommandWordBitZeroDecides : Prop :=
  ∀ r b : Nat, r < 2 ^ 31 → b < 2 →
    decode (.command (BitVec.ofNat 32 (2 * r + b))) = .ok (if b = 1 then .start else .nop)

/-- R62 and R70: the table of format `S`, row by row: a code, the `STATE` value of its name and the operation it selects;
every `STATE` value stands in a row, and the codes 12 to 15 select none. -/
def Obligations.SequencerCodesSelectOperations : Prop :=
  let rows : List (Nat × Sequencer × Instr) :=
    [(0, .idle, .idle), (1, .drvOut, .drvOut), (2, .drvLow, .drvLow), (3, .hold, .hold), (4, .relIn, .relIn),
      (5, .poll, .poll), (6, .chkCnt, .chkCnt), (7, .skip, .skip), (8, .shift, .shift), (9, .chkSum, .chkSum),
      (10, .conv, .conv), (11, .done, .done)]
  (∀ r ∈ rows, r.2.1.code.toNat = r.1 ∧ decode (.sequencer (BitVec.ofNat 4 r.1)) = .ok r.2.2 ∧
    engineOp r.2.1 = r.2.2) ∧
  (∀ q : Sequencer, (∃ r ∈ rows, r.2.1 = q) ∧ decode (.sequencer q.code) = .ok (engineOp q)) ∧
  (∀ c : BitVec 4, 12 ≤ c.toNat → decode (.sequencer c) = .error .reservedSequencerCode)

/-- Decode and encode agree, on the format words and on the opcode table's numbers, for every well-formed operation
with every operand. The width 1 of the reset port's number is the model's choice (log 10). -/
def Obligations.DecodeOfEncodeIsTheOperation : Prop :=
  ∀ i : Instr, i.wellFormed = true →
    decode (encode i) = .ok i ∧
    decodeTableWord (numberOfOpWord (encode i)).1 (numberOfOpWord (encode i)).2 = some i

/-- Words of the opcode table written out: five that are an operation's, and the reserved code `0xC`, which is none's.
The widths 48 of format `H` and 8 of format `S` (whole bytes for the spec's 42 and 4 bits) are the model's choice
(log 10). -/
def Obligations.TableWordsDecode : Prop :=
  decodeTableWord 48 0x20300000000 = some (.rd 0x03) ∧
  decodeTableWord 48 0x30312345678 = some (.wr 0x03 0x12345678) ∧
  decodeTableWord 32 0x80000003 = some .start ∧
  decodeTableWord 32 0xFFFFFFFE = some .nop ∧
  decodeTableWord 8 0x5 = some .poll ∧
  decodeTableWord 8 0xC = none

/-! ## The step -/

/-- R69, R80, R54: what a step runs. In a reset step, `RESET` after the host read, if any; otherwise the host operation
that the ports decode to, if any, and then the operation that the pre-step `STATE` decodes to. The inputs are sampled
first. (That the two run one after the other is log 5.) -/
def Obligations.StepRunsTheDecodedOperations : Prop :=
  ∀ s : State,
    (s.nextPorts.rst = true →
      (hostRead s.nextPorts = none → step s = exec .reset s.sample) ∧
      (∀ i t, hostRead s.nextPorts = some i → exec i s.sample = .next t → step s = exec .reset t)) ∧
    (s.nextPorts.rst = false → ∀ e, decode (.sequencer s.seq.code) = .ok e →
      (s.nextPorts.hValid = false → step s = exec e s.sample) ∧
      (∀ i t, decode (.hostAccess (hostAccessWord s.nextPorts.hValid s.nextPorts.hWrite s.nextPorts.hAddr
          s.nextPorts.hWdata)) = .ok i →
        (∀ v, i ≠ .wr 0 v) → exec i s.sample = .next t → step s = exec e t) ∧
      (s.nextPorts.hValid = true → s.nextPorts.hWrite = true → s.nextPorts.hAddr = 0 →
        ∀ i t, decode (.command s.nextPorts.hWdata) = .ok i → exec i s.sample = .next t → step s = exec e t))

/-- R48: a host read returns, in its own step, the word of the pre-step state, in a reset step too (R160). -/
def Obligations.ReadReturnsThePreStepWord : Prop :=
  ∀ s t : State, s.nextPorts.hValid = true → s.nextPorts.hWrite = false → step s = .next t →
    t.hRdata = some (s.regRead s.nextPorts.hAddr)

/-- R48, R49, R81, R82 (a) and (d): a read, a write to any address but `CMD`, a command with bit 0 = 0 and a `START` in
a busy step leave every register as a step without a host access does; in a step that faults they fault alike. -/
def Obligations.InertAccessLeavesNoTrace : Prop :=
  ∀ (s : State) (p : Ports), p.rst = false → inertAccess s p →
    (∃ t u, step (s.withNextPorts p) = .next t ∧
      step (s.withNextPorts { p with hValid := false }) = .next u ∧ sameRegisters u t) ∨
    (∃ r, step (s.withNextPorts p) = .fault r ∧ step (s.withNextPorts { p with hValid := false }) = .fault r)

/-! ## The host register map -/

/-- R42, R64: the word of every address, the buffer windows `CAP` long, the reserved addresses 0, the values after reset
(`VARIANT` is 1 for Type22 and 0 for Type11), and that a write to any address but `CMD` is ignored. -/
def Obligations.RegisterMapWords : Prop :=
  ∀ s : State,
    s.regRead 0x00 = 0 ∧
    s.regRead 0x02 = (if s.variant = .type22 then 1 else 0) ∧
    s.regRead 0x03 = s.temp ∧ s.regRead 0x04 = s.hum ∧
    (s.regRead 0x05).toNat = s.b0.toNat * 2 ^ 24 + s.b1.toNat * 2 ^ 16 + s.b2.toNat * 2 ^ 8 + s.b3.toNat ∧
    (s.regRead 0x06).toNat = s.b4.toNat + s.sum.toNat * 2 ^ 8 ∧
    (s.regRead 0x07).toNat = s.lcnt.toNat + s.hcnt.toNat * 2 ^ 8 ∧
    s.regRead 0x08 = s.iter ∧ s.regRead 0x0A = s.anchor ∧ s.regRead 0x0B = s.t0 ∧
    (∀ (i : Nat) (h : i < 64), i < s.cap →
      s.regRead (BitVec.ofNat 8 (0x40 + i)) = s.low[i] ∧ s.regRead (BitVec.ofNat 8 (0x80 + i)) = s.high[i]) ∧
    (∀ i : Nat, i < 64 → s.cap ≤ i →
      s.regRead (BitVec.ofNat 8 (0x40 + i)) = 0 ∧ s.regRead (BitVec.ofNat 8 (0x80 + i)) = 0) ∧
    (∀ a : BitVec 8, (0x0C ≤ a.toNat ∧ a.toNat ≤ 0x3F) ∨ 0xC0 ≤ a.toNat → s.regRead a = 0) ∧
    (∀ (p : Params) (v : Variant) (a : BitVec 8),
      (State.afterReset p v).regRead a = if a = 0x02 ∧ v = .type22 then 1 else 0) ∧
    (∀ (a : BitVec 8) (v : Word), a ≠ 0 → exec (.wr a v) s = .next s)

/-- R44: the fields of `STATUS`, which a write does not change, and its values at rest and while busy in states that
keep the invariant. -/
def Obligations.StatusWordFields : Prop :=
  ∀ s : State,
    (s.regRead 0x01).toNat = s.busy.toNat + 2 * s.doneF.toNat + 4 * s.okF.toNat + 16 * s.err.code.toNat
      + 256 * s.seq.code.toNat ∧
    (∀ v, exec (.wr 0x01 v) s = .next s) ∧
    (Inv s →
      (s.seq = .idle → s.regRead 0x01 = 0) ∧
      (s.seq = .done → s.err = .noError → s.regRead 0x01 = 0x0B06) ∧
      (s.seq = .done → s.err = .invalidNumberOfPulses → s.regRead 0x01 = 0x0B12) ∧
      (s.seq = .done → s.err = .invalidChecksum → s.regRead 0x01 = 0x0B22) ∧
      (s.busy = true → (s.regRead 0x01).toNat = 256 * s.seq.code.toNat + 1))

/-- R45: the fields of `DBG`, which a write does not change. -/
def Obligations.DebugWordFields : Prop :=
  ∀ s : State,
    (s.regRead 0x09).toNat = s.skipn.toNat + s.bitidx.toNat * 2 ^ 8 + s.zfirst.toNat * 2 ^ 16
      + s.prev.toNat * 2 ^ 17 + s.dir.toNat * 2 ^ 18 + s.dout.toNat * 2 ^ 19 ∧
    ∀ v, exec (.wr 0x09 v) s = .next s

/-- R27, R146, R152, R31: the three flags, the bits of `STATUS` that show them, their values after reset, and the ports
that equal registers and flags. -/
def Obligations.StatusFlagsAndPorts : Prop :=
  ∀ s : State,
    (s.busy = true ↔ s.seq ≠ .idle ∧ s.seq ≠ .done) ∧
    (s.doneF = true ↔ s.seq = .done) ∧
    (s.okF = true ↔ s.seq = .done ∧ s.err = .noError) ∧
    (s.regRead 0x01).getLsbD 0 = s.busy ∧ (s.regRead 0x01).getLsbD 1 = s.doneF ∧ (s.regRead 0x01).getLsbD 2 = s.okF ∧
    (∀ (p : Params) (v : Variant), let r := State.afterReset p v
      r.busy = false ∧ r.doneF = false ∧ r.okF = false) ∧
    s.prioHint = s.busy ∧ s.donePort = s.doneF ∧ s.lineOe = s.dir ∧ s.lineOut = s.dout

/-! ## Host operations -/

/-- R83: `RD a` shows the word of `a`, changes no register and raises nothing, for any `a`; `CMD` and every reserved
address show 0. -/
def Obligations.RdAnswersTheWord : Prop :=
  ∀ (s : State) (a : BitVec 8),
    exec (.rd a) s = .next { s with hRdata := some (s.regRead a) } ∧
    (a = 0 ∨ (0x0C ≤ a.toNat ∧ a.toNat ≤ 0x3F) ∨ (0x40 + s.params.cap ≤ a.toNat ∧ a.toNat ≤ 0x7F) ∨
      0x80 + s.params.cap ≤ a.toNat ∨ 0xC0 ≤ a.toNat → s.regRead a = 0)

/-- R84: `WR a, v` is `START` or `NOP` at `0x00` by bit 0 of `v`, nothing at any other address. -/
def Obligations.WrIsACommandAtZeroOnly : Prop :=
  ∀ (s : State) (a : BitVec 8) (v : Word),
    exec (.wr a v) s =
      if a = 0 then (if v.toNat % 2 = 1 then exec .start s else exec .nop s) else .next s

/-- R84, R81, R82: `WR` completes in every state with every operand, and `NOP` changes nothing. -/
def Obligations.WrAndNopComplete : Prop :=
  ∀ (s : State) (a : BitVec 8) (v : Word),
    exec .nop s = .next s ∧
    ((a ≠ 0 ∨ v.toNat % 2 = 0 ∨ s.busy = true) → exec (.wr a v) s = .next s) ∧
    (a = 0 → v.toNat % 2 = 1 → s.busy = false → exec (.wr a v) s = .next s.beginRead)

/-- R82: an accepted `START` zeroes every register of a read in one step and goes to `DRV_OUT`; `VARIANT`, `DIR` and
`DOUT` are not written. While busy it is ignored completely. After it `STATUS` is `0x101`, and every other address but
`VARIANT` and `DBG` reads 0. Bits 31:1 of the command word are ignored. -/
def Obligations.StartClearsTheReadAtRest : Prop :=
  ∀ s : State,
    (s.seq = .idle ∨ s.seq = .done →
      exec .start s = .next { s with
        err := .noError, prev := false, anchor := 0, t0 := 0, iter := 0, lcnt := 0, hcnt := 0
        low := Vector.replicate 64 0, high := Vector.replicate 64 0, skipn := 0, zfirst := false, bitidx := 0
        b0 := 0, b1 := 0, b2 := 0, b3 := 0, b4 := 0, sum := 0, temp := 0, hum := 0, seq := .drvOut } ∧
      ∀ t, exec .start s = .next t → t.regRead 0x01 = 0x101 ∧
        ∀ a : BitVec 8, a ≠ 0x01 → a ≠ 0x02 → a ≠ 0x09 → t.regRead a = 0) ∧
    (s.seq ≠ .idle → s.seq ≠ .done → exec .start s = .next s) ∧
    (∀ v : Word, v.toNat % 2 = 1 → exec (.wr 0 v) s = exec .start s)

/-- R88: at rest the engine has the effects of `START` when the host operation of the step is `START`, else none. -/
def Obligations.RestAcceptsStartElseNothing : Prop :=
  ∀ (s : State) (i : Instr), i = .idle ∨ i = .done →
    (s.ports.hValid = true → s.ports.hWrite = true → s.ports.hAddr = 0 → s.ports.hWdata.toNat % 2 = 1 →
      exec i s = .next s.beginRead) ∧
    (s.ports.hValid = false ∨ s.ports.hWrite = false ∨ s.ports.hAddr ≠ 0 ∨ s.ports.hWdata.toNat % 2 = 0 →
      exec i s = .next s)

/-! ## Capture -/

/-- R90: `DRV_OUT` sets the direction and nothing else, so that the port pair (`line_oe`, `line_out`) is (1, 0) from the
end of the step wherever `DOUT` is 0, as it always is (R15). -/
def Obligations.DrvOutSetsOutput : Prop :=
  ∀ s : State,
    exec .drvOut s = .next { s with dir := true, seq := .drvLow } ∧
    ∀ t, Inv s → exec .drvOut s = .next t → t.lineOe = true ∧ t.lineOut = false

/-- R91: `DRV_LOW` drives low and notes the time. -/
def Obligations.DrvLowNotesTheTime : Prop :=
  ∀ s : State, exec .drvLow s = .next { s with dout := false, t0 := s.ports.ts, seq := .hold }

/-- R92: `HOLD` goes on exactly when the time since `T0` modulo 2^32 is 10000 microseconds or more. -/
def Obligations.HoldLeavesAfterTenMilliseconds : Prop :=
  ∀ s : State,
    exec .hold s = .next
      (if 10000 ≤ (s.ports.ts.toNat + 2 ^ 32 - s.t0.toNat) % 2 ^ 32 then { s with seq := .relIn } else s)

/-- R93: `REL_IN` releases the line and starts the loop, or skips it with a budget of 0. -/
def Obligations.RelInStartsTheLoop : Prop :=
  ∀ s : State, exec .relIn s = .next { s with
    dir := false, prev := false, anchor := s.ports.ts
    seq := if s.params.pollBudget = 0 then .chkCnt else .poll }

/-- R94: one iteration of the loop, every register named: a transition is recorded in the buffer of the phase that
ended, unless that buffer is full; the loop ends on the counts after the step. For an `ITER` that can still count. -/
def Obligations.PollIteration : Prop :=
  ∀ s : State, s.iter.toNat + 1 < 2 ^ 32 →
    let moved := s.ports.lineIn ≠ s.prev
    let dur : Word := BitVec.ofNat 32 (s.ports.ts.toNat + 2 ^ 32 - s.anchor.toNat)
    let lowEnds := moved ∧ s.prev = false ∧ s.lcnt.toNat < s.params.cap
    let highEnds := moved ∧ s.prev = true ∧ s.hcnt.toNat < s.params.cap
    let hcnt' := if highEnds then s.hcnt + 1 else s.hcnt
    exec .poll s = .next { s with
      low := if lowEnds then s.low.setIfInBounds s.lcnt.toNat dur else s.low
      lcnt := if lowEnds then s.lcnt + 1 else s.lcnt
      high := if highEnds then s.high.setIfInBounds s.hcnt.toNat dur else s.high
      hcnt := hcnt'
      anchor := if moved then s.ports.ts else s.anchor
      prev := s.ports.lineIn
      iter := s.iter + 1
      seq := if 41 ≤ hcnt'.toNat ∨ s.params.pollBudget ≤ s.iter.toNat + 1 then .chkCnt else s.seq }

/-- R96 and R97 at the host's reads: a recorded duration is the word of its entry, the count is one more, and every
other entry of both buffers reads as before. -/
def Obligations.RecordedDurationReadsBack : Prop :=
  ∀ s t : State, s.params.wellFormed = true → exec .poll s = .next t → s.ports.lineIn ≠ s.prev →
    (s.prev = false → s.lcnt.toNat < s.params.cap →
      t.regRead (BitVec.ofNat 8 (0x40 + s.lcnt.toNat)) = s.ports.ts - s.anchor ∧
      t.lcnt.toNat = s.lcnt.toNat + 1 ∧ t.hcnt = s.hcnt ∧
      ∀ a : BitVec 8, 0x40 ≤ a.toNat → a.toNat ≠ 0x40 + s.lcnt.toNat → t.regRead a = s.regRead a) ∧
    (s.prev = true → s.hcnt.toNat < s.params.cap →
      t.regRead (BitVec.ofNat 8 (0x80 + s.hcnt.toNat)) = s.ports.ts - s.anchor ∧
      t.hcnt.toNat = s.hcnt.toNat + 1 ∧ t.lcnt = s.lcnt ∧
      ∀ a : BitVec 8, 0x40 ≤ a.toNat → a.toNat ≠ 0x80 + s.hcnt.toNat → t.regRead a = s.regRead a)

/-- R98: at capacity nothing is stored and the count does not move, while `ANCHOR` and `PREV` are updated. -/
def Obligations.FullBufferStoresNothing : Prop :=
  ∀ s t : State, exec .poll s = .next t → s.ports.lineIn ≠ s.prev →
    ((s.prev = false ∧ s.params.cap ≤ s.lcnt.toNat) ∨ (s.prev = true ∧ s.params.cap ≤ s.hcnt.toNat)) →
    t.low = s.low ∧ t.high = s.high ∧ t.lcnt = s.lcnt ∧ t.hcnt = s.hcnt ∧ t.err = s.err ∧
    t.anchor = s.ports.ts ∧ t.prev = s.ports.lineIn

/-! ## The frame decoder -/

/-- R110: `CHK_CNT` raises `invalidNumberOfPulses` exactly below 40, whatever the values; R143: `ERR` and `STATE` are
all that an error writes. -/
def Obligations.ChkCntRequiresFortyPulses : Prop :=
  ∀ s : State, exec .chkCnt s = .next
    (if s.hcnt.toNat < 40 then { s with err := .invalidNumberOfPulses, seq := .done } else { s with seq := .skip })

/-- R111: `SKIP` drops the leading excess over 40 and marks the case of exactly 40. -/
def Obligations.SkipDropsTheExcess : Prop :=
  ∀ s : State, 40 ≤ s.hcnt.toNat →
    exec .skip s = .next { s with
      skipn := BitVec.ofNat 8 (s.hcnt.toNat - 40), zfirst := decide (s.hcnt.toNat = 40), seq := .shift }

/-- R112, R113: `SHIFT` shifts the bit of the selected duration into byte `BITIDX div 8`; the other bytes keep their
values; the fortieth goes to `CHK_SUM`. -/
def Obligations.ShiftAssemblesOneBit : Prop :=
  ∀ s : State, s.params.wellFormed = true → s.bitidx.toNat < 40 →
    (s.bitidx.toNat = 0 ∧ s.zfirst = true) ∨ s.skipn.toNat + s.bitidx.toNat < s.params.cap →
    let j := s.bitidx.toNat
    let d := if j = 0 ∧ s.zfirst = true then 0 else (s.high[s.skipn.toNat + j]?.getD 0).toNat
    let shifted := fun b : Byte => BitVec.ofNat 8 (2 * b.toNat + if 30 ≤ d then 1 else 0)
    exec .shift s = .next { s with
      b0 := if j / 8 = 0 then shifted s.b0 else s.b0
      b1 := if j / 8 = 1 then shifted s.b1 else s.b1
      b2 := if j / 8 = 2 then shifted s.b2 else s.b2
      b3 := if j / 8 = 3 then shifted s.b3 else s.b3
      b4 := if j / 8 = 4 then shifted s.b4 else s.b4
      bitidx := BitVec.ofNat 6 (j + 1)
      seq := if j + 1 = 40 then .chkSum else s.seq }

/-- R115: with `ZFIRST` the first frame bit is 0 whatever `HIGH[0]` holds, and `HIGH[0]` still reads as captured. -/
def Obligations.ForcedZeroFirstBit : Prop :=
  ∀ (s : State) (v : Word), s.bitidx = 0 → s.zfirst = true →
    ∃ t, exec .shift { s with high := s.high.setIfInBounds 0 v } = .next t ∧
      t.b0.toNat = 2 * s.b0.toNat % 256 ∧ t.high[0] = v

/-- THE MODEL'S CHOICE (log 7): where `SHIFT` would reach a frame byte or a buffer entry that does not exist, it stops
by name. No state of a run is such (`InvariantStepAnswersNext`). -/
def Obligations.ShiftStopsAtWhatDoesNotExist : Prop :=
  ∀ s : State,
    (40 ≤ s.bitidx.toNat → exec .shift s = .fault .noSuchFrameByte) ∧
    (s.bitidx.toNat < 40 → ¬ (s.bitidx.toNat = 0 ∧ s.zfirst = true) →
      s.params.cap ≤ s.skipn.toNat + s.bitidx.toNat → exec .shift s = .fault .noSuchBufferEntry)

/-- R120, R121: `CHK_SUM` writes the sum of the four bytes modulo 256 in both cases and raises `invalidChecksum`
exactly when it differs from `B4`; R143: nothing else is written. -/
def Obligations.ChkSumComparesTheSum : Prop :=
  ∀ s : State,
    let n := (s.b0.toNat + s.b1.toNat + s.b2.toNat + s.b3.toNat) % 256
    exec .chkSum s = .next
      (if n ≠ s.b4.toNat then { s with sum := BitVec.ofNat 8 n, err := .invalidChecksum, seq := .done }
       else { s with sum := BitVec.ofNat 8 n, seq := .conv })

/-- R122: a frame that passes the check fails it after any one bit of any one of its five bytes is inverted; two
compensating changes pass. -/
def Obligations.SingleBitCorruptionIsDetected : Prop :=
  (∀ (s : State) (k : Fin 5) (i : Nat), i < 8 →
    (∃ t, exec .chkSum s = .next t ∧ t.seq = .conv) →
    ∃ u, exec .chkSum (s.setFrameByte k (s.frameByte k ^^^ BitVec.ofNat 8 (2 ^ i))) = .next u ∧
      u.err = .invalidChecksum ∧ u.seq = .done) ∧
  (∀ s : State, s.b0.toNat < 255 → 0 < s.b1.toNat → (∃ t, exec .chkSum s = .next t ∧ t.seq = .conv) →
    ∃ u, exec .chkSum { s with b0 := s.b0 + 1, b1 := s.b1 - 1 } = .next u ∧ u.seq = .conv)

/-- R125 with R126 to R129: the conversion of both variants in exact integers, and nothing else written. -/
def Obligations.ConvConvertsTheFrame : Prop :=
  ∀ s : State, ∃ t, exec .conv s = .next t ∧
    t = { s with temp := t.temp, hum := t.hum, seq := .done } ∧
    t.temp.toInt =
      (if 128 ≤ s.b2.toNat then -1 else 1) *
        (if s.variant = .type11 then (s.b2.toNat * 10 : Int)
         else ((s.b2.toNat % 128 * 256 + s.b3.toNat : Nat) : Int)) * 18 + 3200 ∧
    t.hum.toNat = if s.variant = .type11 then s.b0.toNat * 10 else s.b0.toNat * 256 + s.b1.toNat

/-- R131: the ranges of the two results. -/
def Obligations.ResultRanges : Prop :=
  ∀ s t : State, exec .conv s = .next t →
    (s.variant = .type22 → t.hum.toNat ≤ 65535 ∧ -586606 ≤ t.temp.toInt ∧ t.temp.toInt ≤ 593006 ∧
      ∃ c : Int, -32767 ≤ c ∧ c ≤ 32767 ∧ t.temp.toInt = c * 18 + 3200) ∧
    (s.variant = .type11 → t.hum.toNat ≤ 2550 ∧ t.hum.toNat % 10 = 0 ∧
      -42700 ≤ t.temp.toInt ∧ t.temp.toInt ≤ 26060 ∧
      ∃ c : Int, t.temp.toInt = c * 18 + 3200 ∧ c % 10 = 0 ∧
        ((0 ≤ c ∧ c ≤ 1270) ∨ (-2550 ≤ c ∧ c ≤ -1280)))

/-! ## Reset -/

/-- R160 as an operation: every register as after reset, `VARIANT` from the strap; the parameters are no registers. -/
def Obligations.ResetClearsEveryRegister : Prop :=
  ∀ s : State, ∃ t, exec .reset s = .next t ∧
    t.seq = .idle ∧ t.err = .noError ∧ t.variant = (if s.ports.variantSel = true then .type22 else .type11) ∧
    t.dir = false ∧ t.dout = false ∧ t.prev = false ∧ t.anchor = 0 ∧ t.t0 = 0 ∧ t.iter = 0 ∧
    t.lcnt = 0 ∧ t.hcnt = 0 ∧ (∀ i (h : i < 64), t.low[i] = 0 ∧ t.high[i] = 0) ∧
    t.skipn = 0 ∧ t.zfirst = false ∧ t.bitidx = 0 ∧
    (∀ k, t.frameByte k = 0) ∧ t.sum = 0 ∧ t.temp = 0 ∧ t.hum = 0 ∧ t.params = s.params

/-- R160, R162: a step with `rst = 1` gives the state after reset from any state, whatever the host does in it; a host
read in it shows the pre-step word. -/
def Obligations.ResetStepIsDominant : Prop :=
  ∀ s : State, s.nextPorts.rst = true →
    ∃ t, step s = .next t ∧
      sameRegisters (State.afterReset s.params (if s.nextPorts.variantSel = true then .type22 else .type11)) t ∧
      (s.nextPorts.hValid = true → s.nextPorts.hWrite = false → t.hRdata = some (s.regRead s.nextPorts.hAddr))

/-- R13, R162, R6: in a step without reset `VARIANT` and the parameters keep their values; in a reset step `VARIANT`
takes the strap and the parameters keep theirs. -/
def Obligations.OnlyResetWritesTheVariant : Prop :=
  ∀ s t : State, step s = .next t →
    t.params = s.params ∧
    t.variant = if s.nextPorts.rst = true then (if s.nextPorts.variantSel = true then .type22 else .type11)
      else s.variant

/-! ## The whole machine -/

/-- R87: the transition table of `STATE`. Primed values are those of the state after the step. -/
def Obligations.TransitionTable : Prop :=
  ∀ s t : State, step s = .next t →
    let p := s.nextPorts
    let startNow := p.hValid = true ∧ p.hWrite = true ∧ p.hAddr = 0 ∧ p.hWdata.getLsbD 0 = true
    (p.rst = true → t.seq = .idle) ∧
    (p.rst = false →
      (s.seq = .idle → t.seq = if startNow then .drvOut else .idle) ∧
      (s.seq = .drvOut → t.seq = .drvLow) ∧
      (s.seq = .drvLow → t.seq = .hold) ∧
      (s.seq = .hold → t.seq = if 10000 ≤ (p.ts - s.t0).toNat then .relIn else .hold) ∧
      (s.seq = .relIn → t.seq = if s.params.pollBudget = 0 then .chkCnt else .poll) ∧
      (s.seq = .poll → t.seq = if 41 ≤ t.hcnt.toNat ∨ s.params.pollBudget ≤ t.iter.toNat then .chkCnt else .poll) ∧
      (s.seq = .chkCnt → s.hcnt.toNat < 40 → t.seq = .done ∧ t.err = .invalidNumberOfPulses) ∧
      (s.seq = .chkCnt → 40 ≤ s.hcnt.toNat → t.seq = .skip) ∧
      (s.seq = .skip → t.seq = .shift) ∧
      (s.seq = .shift → t.seq = if t.bitidx.toNat = 40 then .chkSum else .shift) ∧
      (s.seq = .chkSum → t.sum ≠ s.b4 → t.seq = .done ∧ t.err = .invalidChecksum) ∧
      (s.seq = .chkSum → t.sum = s.b4 → t.seq = .conv) ∧
      (s.seq = .conv → t.seq = .done) ∧
      (s.seq = .done → t.seq = if startNow then .drvOut else .done))

/-- The invariant (Safety.lean) holds of the state after reset, for all well-formed parameters and both variants. -/
def Obligations.InvariantHoldsAfterReset : Prop :=
  ∀ (p : Params) (v : Variant), p.wellFormed = true → Inv (State.afterReset p v)

/-- Every step keeps the invariant: the ranges and relations of 10_state.md (R15, R19, R20, R21, R22, R26), the frame
bits of R66, the sum and the results, whatever the inputs. -/
def Obligations.EveryStepKeepsTheInvariant : Prop :=
  ∀ s t : State, Inv s → step s = .next t → Inv t

/-- From a state that keeps the invariant a step never faults and is never refused. -/
def Obligations.InvariantStepAnswersNext : Prop :=
  ∀ s : State, Inv s → ∃ t, step s = .next t

/-- Every run from reset, with any parameters in their ranges, either variant and any inputs, goes on for ever, and at
every step: R22 alternation, R20 count ranges, R19 the budget, R15 and R103 the line, R21 the unused entries, R24 and
R25 no result while busy or on failure, R44 no error while busy, R141 the budget used up when pulses are missing. -/
def Obligations.EveryRunKeepsTheRegisterRules : Prop :=
  ∀ (p : Params) (v : Variant) (inputs : List Ports) (k n : Nat), p.wellFormed = true →
    ∃ t, run n { State.afterReset p v with env := inputs, tick := k } = .next t ∧
      t.lcnt.toNat = min (t.hcnt.toNat + t.prev.toNat) p.cap ∧
      t.hcnt.toNat ≤ min p.cap 41 ∧
      t.iter.toNat ≤ p.pollBudget ∧
      t.lineOut = false ∧
      (t.lineOe = true ↔ t.seq = .drvLow ∨ t.seq = .hold ∨ t.seq = .relIn) ∧
      (∀ (i : Nat) (h : i < 64), (t.lcnt.toNat ≤ i → t.low[i] = 0) ∧ (t.hcnt.toNat ≤ i → t.high[i] = 0)) ∧
      (t.seq ≠ .done ∨ t.err ≠ .noError → t.temp = 0 ∧ t.hum = 0) ∧
      (t.seq ≠ .done → t.err = .noError) ∧
      (t.seq = .done → t.err = .invalidNumberOfPulses → t.hcnt.toNat < 40 ∧ t.iter.toNat = p.pollBudget)

/-- R12, R143, R148: which operations write `ERR` and to what, in the code that the host reads in `STATUS` 5:4; and the
host is the one receiver: `ERR` shows in that word alone, in no other word or port, and reaches no other register. -/
def Obligations.ErrWriters : Prop :=
  (∀ s t : State, s.nextPorts.rst = false → step s = .next t → t.err ≠ s.err →
    let errBits := (t.regRead 0x01).toNat / 16 % 4
    (t.err = .noError ∧ errBits = 0 ∧ t.seq = .drvOut ∧ (s.seq = .idle ∨ s.seq = .done)) ∨
    (t.err = .invalidNumberOfPulses ∧ errBits = 1 ∧ s.seq = .chkCnt ∧ t.seq = .done) ∨
    (t.err = .invalidChecksum ∧ errBits = 2 ∧ s.seq = .chkSum ∧ t.seq = .done)) ∧
  (∀ (s : State) (e : ErrCode), let u := { s with err := e }
    u.prioHint = s.prioHint ∧ u.donePort = s.donePort ∧ u.lineOe = s.lineOe ∧ u.lineOut = s.lineOut ∧
    (∀ a : BitVec 8, a ≠ 0x01 → u.regRead a = s.regRead a) ∧
    ∀ t : State, step s = .next t → ∃ v : State, step u = .next v ∧
      { v with err := t.err, hRdata := t.hRdata } = t ∧ (s.nextPorts.hAddr ≠ 0x01 → v.hRdata = t.hRdata))

/-- R14, R15: which operations write `DIR` and `DOUT`, and to what. -/
def Obligations.LineWriters : Prop :=
  ∀ s t : State, s.nextPorts.rst = false → step s = .next t →
    (t.dir ≠ s.dir → (s.seq = .drvOut ∧ t.dir = true) ∨ (s.seq = .relIn ∧ t.dir = false)) ∧
    (t.dout ≠ s.dout → s.seq = .drvLow ∧ t.dout = false)

/-- R21, R53: outside `START` only `POLL` writes the buffers, at most one entry, the next one of one of them. -/
def Obligations.BufferWriters : Prop :=
  ∀ s t : State, s.nextPorts.rst = false → step s = .next t → t.seq ≠ .drvOut →
    (s.seq ≠ .poll → t.low = s.low ∧ t.high = s.high) ∧
    (s.seq = .poll →
      (t.high = s.high ∧ ∀ i : Nat, i ≠ s.lcnt.toNat → t.low[i]? = s.low[i]?) ∨
      (t.low = s.low ∧ ∀ i : Nat, i ≠ s.hcnt.toNat → t.high[i]? = s.high[i]?))

/-- R56, R133: `TEMP` and `HUM` change only in the step of `CONV`, which writes `STATE <- DONE` too, and when a `START`
zeroes them. -/
def Obligations.ResultsArePublishedWithDone : Prop :=
  ∀ s t : State, s.nextPorts.rst = false → step s = .next t → (t.temp ≠ s.temp ∨ t.hum ≠ s.hum) →
    (s.seq = .conv ∧ t.seq = .done) ∨ (t.seq = .drvOut ∧ t.temp = 0 ∧ t.hum = 0)

/-- R52, R88: at rest, until a `START` or a reset, no register changes for any number of steps. -/
def Obligations.RestKeepsEveryRegister : Prop :=
  ∀ (n : Nat) (s : State), (s.seq = .idle ∨ s.seq = .done) →
    (∀ k, k < n → (s.portsAt k).rst = false ∧ startNow (s.portsAt k) = false) →
    ∃ t, run n s = .next t ∧ sameRegisters s t

/-- R171: `HOLD` has no time-out: while `ts` does not reach 10000 past `T0`, no number of steps and no host access
changes any register. -/
def Obligations.HoldHangsWhileTimeStands : Prop :=
  ∀ (n : Nat) (s : State), s.seq = .hold →
    (∀ k, k < n → (s.portsAt k).rst = false ∧ ((s.portsAt k).ts - s.t0).toNat < 10000) →
    ∃ t, run n s = .next t ∧ sameRegisters s t

/-- R99: the polling loop is bounded: whatever the inputs, it ends in `CHK_CNT` after at most the iterations that the
budget still allows, each counted. -/
def Obligations.PollLoopEndsWithinTheBudget : Prop :=
  ∀ s : State, Inv s → s.seq = .poll → s.noResetFor (s.params.pollBudget - s.iter.toNat) →
    ∃ (n : Nat) (t : State), 1 ≤ n ∧ n ≤ s.params.pollBudget - s.iter.toNat ∧ run n s = .next t ∧
      t.seq = .chkCnt ∧ t.iter.toNat = s.iter.toNat + n ∧
      (t.hcnt.toNat = 41 ∨ t.iter.toNat = s.params.pollBudget)

/-- The closed form of R114 with the selection of R111 and R113 written out, as a consequence of the invariant: where
`BITIDX` is 40 the five bytes are the closed form of the captured high durations. (It speaks of no step:
`FortiethShiftCompletesTheClosedForm` does.) -/
def Obligations.FrameBytesAreTheClosedForm : Prop :=
  ∀ s : State, Inv s → s.bitidx.toNat = 40 →
    ∀ k : Fin 5, (s.frameByte k).toNat = trainByte s.hcnt.toNat s.high k

/-- R114: the step of `SHIFT` that ends in `CHK_SUM` leaves in each byte the sum of its eight bits, the first highest; a
bit is 1 from 30 microseconds on (R68), and the selected durations are those of R113. -/
def Obligations.FortiethShiftCompletesTheClosedForm : Prop :=
  ∀ s t : State, Inv s → s.seq = .shift → step s = .next t → t.seq = .chkSum →
    let selected := fun j : Nat => if j = 0 ∧ t.zfirst = true then 0 else (t.high[t.skipn.toNat + j]?.getD 0).toNat
    ∀ k : Fin 5, (t.frameByte k).toNat =
      ((List.range 8).map fun i => (if 30 ≤ selected (8 * k + i) then 1 else 0) * 2 ^ (7 - i)).sum

/-- R116, R114, R89: from `CHK_CNT` on, the read ends after 44, 43 or 1 steps in the error and the results that one
function of the SensorVariant and the captured high durations gives, whatever the inputs of those steps. -/
def Obligations.DecoderIsAFunctionOfTheTrain : Prop :=
  ∀ s : State, Inv s → s.seq = .chkCnt → s.noResetFor 44 →
    let d := decodeTrain s.variant s.hcnt.toNat s.high
    ∃ t, run d.steps s = .next t ∧ t.seq = .done ∧ t.err = d.err ∧ t.temp.toInt = d.temp ∧ t.hum.toNat = d.hum

/-- R116: two captures with equal high durations, count and variant decode to the same error and results, whatever
else differs and whatever the inputs. -/
def Obligations.DecodeIsDeterministic : Prop :=
  ∀ s u : State, Inv s → Inv u → s.seq = .chkCnt → u.seq = .chkCnt → s.noResetFor 44 → u.noResetFor 44 →
    s.high = u.high → s.hcnt = u.hcnt → s.variant = u.variant →
    ∃ n s' u', run n s = .next s' ∧ run n u = .next u' ∧ s'.seq = .done ∧ u'.seq = .done ∧
      s'.err = u'.err ∧ s'.temp = u'.temp ∧ s'.hum = u'.hum ∧ s'.sum = u'.sum ∧
      ∀ k, s'.frameByte k = u'.frameByte k

/-- R89: the length of a read. From rest, with `START` in the first step and the hold passing in its `h`-th step, the
read ends after `48 + h + p` steps (success), `47 + h + p` (`invalidChecksum`) or `5 + h + p`
(`invalidNumberOfPulses`), for the number `p` of `POLL` steps, at most the budget; until then it is busy. -/
def Obligations.EveryReadEndsInItsLength : Prop :=
  ∀ (s : State) (h : Nat), Inv s → (s.seq = .idle ∨ s.seq = .done) → 1 ≤ h →
    startNow (s.portsAt 0) = true → s.noResetFor (48 + h + s.params.pollBudget) →
    (∀ k, 3 ≤ k → k < 2 + h → ((s.portsAt k).ts - (s.portsAt 2).ts).toNat < 10000) →
    10000 ≤ ((s.portsAt (2 + h)).ts - (s.portsAt 2).ts).toNat →
    ∃ (p n : Nat) (t : State), p ≤ s.params.pollBudget ∧ run n s = .next t ∧ t.seq = .done ∧ t.iter.toNat = p ∧
      (t.err = .noError → n = 48 + h + p) ∧
      (t.err = .invalidChecksum → n = 47 + h + p) ∧
      (t.err = .invalidNumberOfPulses → n = 5 + h + p) ∧
      ∀ m u, 1 ≤ m → m < n → run m s = .next u → u.busy = true

/-- R140, R123, R141: what the error of a final state says of its registers: too few pulses with the budget used up, a
full frame whose checksum byte is not the sum, or a frame that passed. -/
def Obligations.FinalStateExplainsItsError : Prop :=
  ∀ s : State, Inv s → s.seq = .done →
    (s.err = .invalidNumberOfPulses ↔ s.hcnt.toNat < 40) ∧
    (s.err = .invalidNumberOfPulses → s.iter.toNat = s.params.pollBudget ∧ s.regRead 0x05 = 0 ∧ s.regRead 0x06 = 0) ∧
    (s.err ≠ .invalidNumberOfPulses →
      s.sum.toNat = (s.b0.toNat + s.b1.toNat + s.b2.toNat + s.b3.toNat) % 256 ∧
      (s.err = .invalidChecksum ↔ s.sum ≠ s.b4))

/-- R113: in `SHIFT` the index `SKIPN + BITIDX` is at most `HCNT - 1`: the decoder reads only what the capture wrote. -/
def Obligations.DecoderReadsOnlyWhatWasCaptured : Prop :=
  ∀ s : State, Inv s → s.seq = .shift →
    s.skipn.toNat + s.bitidx.toNat + 1 ≤ s.hcnt.toNat ∧
    ∃ t, exec .shift s = .next t

/-- R82 (b), 92 D16: nothing of an earlier read reaches a later one: two engines at rest that differ only in what
their last reads left agree in every register after an accepted `START`. -/
def Obligations.StartForgetsTheLastRead : Prop :=
  ∀ s u : State, Inv s → Inv u → (s.seq = .idle ∨ s.seq = .done) → (u.seq = .idle ∨ u.seq = .done) →
    s.variant = u.variant → s.params = u.params → s.nextPorts = u.nextPorts →
    s.nextPorts.rst = false → startNow s.nextPorts = true →
    ∃ s' u', step s = .next s' ∧ step u = .next u' ∧ sameRegisters s' u' ∧ s'.seq = .drvOut

/-! ## The read transaction -/

/-- R85, R86: what `READ` returns is the observable result of the state it ends in, which is a final state; with its
precondition `BUSY` = 0 its first step begins a read. (Samples run out: no result, log 15.) -/
def Obligations.ReadReturnsTheFinalResult : Prop :=
  ∀ (r t : HostRun) (x : ReadResult), runRead r = some (x, t) →
    t.state.seq = .done ∧ t.state.readResult = some x ∧
    (r.state.busy = false → ∃ r1, hostStep (.write 0x00 1) r = some r1 ∧ r1.state.seq = .drvOut)

/-- R85: the steps of `READ` after the status `s` of the wait loop: on success `RD 0x03` (`TEMP`) and then `RD 0x04`
(`HUM`), one step each, and their words make the result; on an error no step is taken. -/
def Obligations.ReadReadsTheResultOnSuccessOnly : Prop :=
  ∀ (r t : HostRun) (s : Word) (x : ReadResult), finishRead s r = some (x, t) →
    (s.toNat / 16 % 4 = 0 → ∃ (temp hum : Word) (r1 : HostRun),
      readWord 0x03 r = some (temp, r1) ∧ readWord 0x04 r1 = some (hum, t) ∧
      t.words = r.words ++ [temp, hum] ∧ r.rest.length = t.rest.length + 2 ∧
      x = .ok ((temp.toInt : Rat) / 100) ((hum.toNat : Rat) / 10)) ∧
    (s.toNat / 16 % 4 = 1 → t = r ∧ x = .error .invalidNumberOfPulses) ∧
    (s.toNat / 16 % 4 = 2 → t = r ∧ x = .error .invalidChecksum)

/-- R74, R86: the line `READ` of a script ends in a final state, and the words of its three last reads stand for the
observable result of that state. -/
def Obligations.ReadLineShowsTheFinalResult : Prop :=
  ∀ r r' : HostRun, HostLine.read.run r = some r' →
    r'.state.seq = .done ∧
    ∃ (ws : List Word) (status temp hum : Word), r'.words = ws ++ [status, temp, hum] ∧
      resultOfWords status temp hum = r'.state.readResult ∧ r'.state.readResult ≠ none

/-- R46, R74, R85: the debug reads of `READ.D`, as a transaction and as a line, change no register; the value that
`READ.D` returns is that of `READ`. -/
def Obligations.DebugReadsKeepTheResult : Prop :=
  (∀ (r u : HostRun) (x : ReadResult), runReadD r = some (x, u) →
    ∃ t, runRead r = some (x, t) ∧ sameRegisters t.state u.state ∧ u.state.readResult = some x) ∧
  (∀ r u : HostRun, HostLine.readD.run r = some u →
    ∃ t, HostLine.read.run r = some t ∧ sameRegisters t.state u.state ∧ u.state.readResult = t.state.readResult)
end

