-- ==== Sys2Proof/Laws/State.lean ====
section
/-! SUPPORT. One lemma per field per update of the state, true by definition, so that no later proof unfolds an
update. -/

namespace Sys2Proof.Machine

/-! ## `State.afterReset` -/

@[simp] theorem afterReset_seq (p : Params) (v : Variant) : (State.afterReset p v).seq = .idle := rfl
@[simp] theorem afterReset_err (p : Params) (v : Variant) : (State.afterReset p v).err = .noError := rfl
@[simp] theorem afterReset_variant (p : Params) (v : Variant) : (State.afterReset p v).variant = v := rfl
@[simp] theorem afterReset_dir (p : Params) (v : Variant) : (State.afterReset p v).dir = false := rfl
@[simp] theorem afterReset_dout (p : Params) (v : Variant) : (State.afterReset p v).dout = false := rfl
@[simp] theorem afterReset_prev (p : Params) (v : Variant) : (State.afterReset p v).prev = false := rfl
@[simp] theorem afterReset_anchor (p : Params) (v : Variant) : (State.afterReset p v).anchor = 0 := rfl
@[simp] theorem afterReset_t0 (p : Params) (v : Variant) : (State.afterReset p v).t0 = 0 := rfl
@[simp] theorem afterReset_iter (p : Params) (v : Variant) : (State.afterReset p v).iter = 0 := rfl
@[simp] theorem afterReset_lcnt (p : Params) (v : Variant) : (State.afterReset p v).lcnt = 0 := rfl
@[simp] theorem afterReset_hcnt (p : Params) (v : Variant) : (State.afterReset p v).hcnt = 0 := rfl
@[simp] theorem afterReset_low (p : Params) (v : Variant) : (State.afterReset p v).low = Vector.replicate 64 0 := rfl
@[simp] theorem afterReset_high (p : Params) (v : Variant) : (State.afterReset p v).high = Vector.replicate 64 0 := rfl
@[simp] theorem afterReset_skipn (p : Params) (v : Variant) : (State.afterReset p v).skipn = 0 := rfl
@[simp] theorem afterReset_zfirst (p : Params) (v : Variant) : (State.afterReset p v).zfirst = false := rfl
@[simp] theorem afterReset_bitidx (p : Params) (v : Variant) : (State.afterReset p v).bitidx = 0 := rfl
@[simp] theorem afterReset_b0 (p : Params) (v : Variant) : (State.afterReset p v).b0 = 0 := rfl
@[simp] theorem afterReset_b1 (p : Params) (v : Variant) : (State.afterReset p v).b1 = 0 := rfl
@[simp] theorem afterReset_b2 (p : Params) (v : Variant) : (State.afterReset p v).b2 = 0 := rfl
@[simp] theorem afterReset_b3 (p : Params) (v : Variant) : (State.afterReset p v).b3 = 0 := rfl
@[simp] theorem afterReset_b4 (p : Params) (v : Variant) : (State.afterReset p v).b4 = 0 := rfl
@[simp] theorem afterReset_sum (p : Params) (v : Variant) : (State.afterReset p v).sum = 0 := rfl
@[simp] theorem afterReset_temp (p : Params) (v : Variant) : (State.afterReset p v).temp = 0 := rfl
@[simp] theorem afterReset_hum (p : Params) (v : Variant) : (State.afterReset p v).hum = 0 := rfl
@[simp] theorem afterReset_params (p : Params) (v : Variant) : (State.afterReset p v).params = p := rfl
@[simp] theorem afterReset_ports (p : Params) (v : Variant) : (State.afterReset p v).ports = Ports.quiet := rfl
@[simp] theorem afterReset_hRdata (p : Params) (v : Variant) : (State.afterReset p v).hRdata = none := rfl
@[simp] theorem afterReset_env (p : Params) (v : Variant) : (State.afterReset p v).env = [] := rfl
@[simp] theorem afterReset_tick (p : Params) (v : Variant) : (State.afterReset p v).tick = 0 := rfl

/-! ## `State.sample` -/

@[simp] theorem sample_seq (s : State) : s.sample.seq = s.seq := rfl
@[simp] theorem sample_err (s : State) : s.sample.err = s.err := rfl
@[simp] theorem sample_variant (s : State) : s.sample.variant = s.variant := rfl
@[simp] theorem sample_dir (s : State) : s.sample.dir = s.dir := rfl
@[simp] theorem sample_dout (s : State) : s.sample.dout = s.dout := rfl
@[simp] theorem sample_prev (s : State) : s.sample.prev = s.prev := rfl
@[simp] theorem sample_anchor (s : State) : s.sample.anchor = s.anchor := rfl
@[simp] theorem sample_t0 (s : State) : s.sample.t0 = s.t0 := rfl
@[simp] theorem sample_iter (s : State) : s.sample.iter = s.iter := rfl
@[simp] theorem sample_lcnt (s : State) : s.sample.lcnt = s.lcnt := rfl
@[simp] theorem sample_hcnt (s : State) : s.sample.hcnt = s.hcnt := rfl
@[simp] theorem sample_low (s : State) : s.sample.low = s.low := rfl
@[simp] theorem sample_high (s : State) : s.sample.high = s.high := rfl
@[simp] theorem sample_skipn (s : State) : s.sample.skipn = s.skipn := rfl
@[simp] theorem sample_zfirst (s : State) : s.sample.zfirst = s.zfirst := rfl
@[simp] theorem sample_bitidx (s : State) : s.sample.bitidx = s.bitidx := rfl
@[simp] theorem sample_b0 (s : State) : s.sample.b0 = s.b0 := rfl
@[simp] theorem sample_b1 (s : State) : s.sample.b1 = s.b1 := rfl
@[simp] theorem sample_b2 (s : State) : s.sample.b2 = s.b2 := rfl
@[simp] theorem sample_b3 (s : State) : s.sample.b3 = s.b3 := rfl
@[simp] theorem sample_b4 (s : State) : s.sample.b4 = s.b4 := rfl
@[simp] theorem sample_sum (s : State) : s.sample.sum = s.sum := rfl
@[simp] theorem sample_temp (s : State) : s.sample.temp = s.temp := rfl
@[simp] theorem sample_hum (s : State) : s.sample.hum = s.hum := rfl
@[simp] theorem sample_params (s : State) : s.sample.params = s.params := rfl
@[simp] theorem sample_ports (s : State) : s.sample.ports = s.nextPorts := rfl
@[simp] theorem sample_hRdata (s : State) : s.sample.hRdata = none := rfl
@[simp] theorem sample_env (s : State) : s.sample.env = s.env.tail := rfl
@[simp] theorem sample_tick (s : State) : s.sample.tick = s.tick + 1 := rfl

/-! ## `State.goto` -/

@[simp] theorem goto_seq (s : State) (q : Sequencer) : (s.goto q).seq = q := rfl
@[simp] theorem goto_err (s : State) (q : Sequencer) : (s.goto q).err = s.err := rfl
@[simp] theorem goto_variant (s : State) (q : Sequencer) : (s.goto q).variant = s.variant := rfl
@[simp] theorem goto_dir (s : State) (q : Sequencer) : (s.goto q).dir = s.dir := rfl
@[simp] theorem goto_dout (s : State) (q : Sequencer) : (s.goto q).dout = s.dout := rfl
@[simp] theorem goto_prev (s : State) (q : Sequencer) : (s.goto q).prev = s.prev := rfl
@[simp] theorem goto_anchor (s : State) (q : Sequencer) : (s.goto q).anchor = s.anchor := rfl
@[simp] theorem goto_t0 (s : State) (q : Sequencer) : (s.goto q).t0 = s.t0 := rfl
@[simp] theorem goto_iter (s : State) (q : Sequencer) : (s.goto q).iter = s.iter := rfl
@[simp] theorem goto_lcnt (s : State) (q : Sequencer) : (s.goto q).lcnt = s.lcnt := rfl
@[simp] theorem goto_hcnt (s : State) (q : Sequencer) : (s.goto q).hcnt = s.hcnt := rfl
@[simp] theorem goto_low (s : State) (q : Sequencer) : (s.goto q).low = s.low := rfl
@[simp] theorem goto_high (s : State) (q : Sequencer) : (s.goto q).high = s.high := rfl
@[simp] theorem goto_skipn (s : State) (q : Sequencer) : (s.goto q).skipn = s.skipn := rfl
@[simp] theorem goto_zfirst (s : State) (q : Sequencer) : (s.goto q).zfirst = s.zfirst := rfl
@[simp] theorem goto_bitidx (s : State) (q : Sequencer) : (s.goto q).bitidx = s.bitidx := rfl
@[simp] theorem goto_b0 (s : State) (q : Sequencer) : (s.goto q).b0 = s.b0 := rfl
@[simp] theorem goto_b1 (s : State) (q : Sequencer) : (s.goto q).b1 = s.b1 := rfl
@[simp] theorem goto_b2 (s : State) (q : Sequencer) : (s.goto q).b2 = s.b2 := rfl
@[simp] theorem goto_b3 (s : State) (q : Sequencer) : (s.goto q).b3 = s.b3 := rfl
@[simp] theorem goto_b4 (s : State) (q : Sequencer) : (s.goto q).b4 = s.b4 := rfl
@[simp] theorem goto_sum (s : State) (q : Sequencer) : (s.goto q).sum = s.sum := rfl
@[simp] theorem goto_temp (s : State) (q : Sequencer) : (s.goto q).temp = s.temp := rfl
@[simp] theorem goto_hum (s : State) (q : Sequencer) : (s.goto q).hum = s.hum := rfl
@[simp] theorem goto_params (s : State) (q : Sequencer) : (s.goto q).params = s.params := rfl
@[simp] theorem goto_ports (s : State) (q : Sequencer) : (s.goto q).ports = s.ports := rfl
@[simp] theorem goto_hRdata (s : State) (q : Sequencer) : (s.goto q).hRdata = s.hRdata := rfl
@[simp] theorem goto_env (s : State) (q : Sequencer) : (s.goto q).env = s.env := rfl
@[simp] theorem goto_tick (s : State) (q : Sequencer) : (s.goto q).tick = s.tick := rfl

/-! ## `State.raise` -/

theorem deliverError_eq (s : State) (e : ErrCode) : s.deliverError e (errorReceiver e) = { s with err := e } := rfl

theorem raise_eq (s : State) (e : ErrCode) : s.raise e = { s with err := e, seq := .done } := rfl

@[simp] theorem raise_seq (s : State) (e : ErrCode) : (s.raise e).seq = .done := rfl
@[simp] theorem raise_err (s : State) (e : ErrCode) : (s.raise e).err = e := rfl
@[simp] theorem raise_variant (s : State) (e : ErrCode) : (s.raise e).variant = s.variant := rfl
@[simp] theorem raise_dir (s : State) (e : ErrCode) : (s.raise e).dir = s.dir := rfl
@[simp] theorem raise_dout (s : State) (e : ErrCode) : (s.raise e).dout = s.dout := rfl
@[simp] theorem raise_prev (s : State) (e : ErrCode) : (s.raise e).prev = s.prev := rfl
@[simp] theorem raise_anchor (s : State) (e : ErrCode) : (s.raise e).anchor = s.anchor := rfl
@[simp] theorem raise_t0 (s : State) (e : ErrCode) : (s.raise e).t0 = s.t0 := rfl
@[simp] theorem raise_iter (s : State) (e : ErrCode) : (s.raise e).iter = s.iter := rfl
@[simp] theorem raise_lcnt (s : State) (e : ErrCode) : (s.raise e).lcnt = s.lcnt := rfl
@[simp] theorem raise_hcnt (s : State) (e : ErrCode) : (s.raise e).hcnt = s.hcnt := rfl
@[simp] theorem raise_low (s : State) (e : ErrCode) : (s.raise e).low = s.low := rfl
@[simp] theorem raise_high (s : State) (e : ErrCode) : (s.raise e).high = s.high := rfl
@[simp] theorem raise_skipn (s : State) (e : ErrCode) : (s.raise e).skipn = s.skipn := rfl
@[simp] theorem raise_zfirst (s : State) (e : ErrCode) : (s.raise e).zfirst = s.zfirst := rfl
@[simp] theorem raise_bitidx (s : State) (e : ErrCode) : (s.raise e).bitidx = s.bitidx := rfl
@[simp] theorem raise_b0 (s : State) (e : ErrCode) : (s.raise e).b0 = s.b0 := rfl
@[simp] theorem raise_b1 (s : State) (e : ErrCode) : (s.raise e).b1 = s.b1 := rfl
@[simp] theorem raise_b2 (s : State) (e : ErrCode) : (s.raise e).b2 = s.b2 := rfl
@[simp] theorem raise_b3 (s : State) (e : ErrCode) : (s.raise e).b3 = s.b3 := rfl
@[simp] theorem raise_b4 (s : State) (e : ErrCode) : (s.raise e).b4 = s.b4 := rfl
@[simp] theorem raise_sum (s : State) (e : ErrCode) : (s.raise e).sum = s.sum := rfl
@[simp] theorem raise_temp (s : State) (e : ErrCode) : (s.raise e).temp = s.temp := rfl
@[simp] theorem raise_hum (s : State) (e : ErrCode) : (s.raise e).hum = s.hum := rfl
@[simp] theorem raise_params (s : State) (e : ErrCode) : (s.raise e).params = s.params := rfl
@[simp] theorem raise_ports (s : State) (e : ErrCode) : (s.raise e).ports = s.ports := rfl
@[simp] theorem raise_hRdata (s : State) (e : ErrCode) : (s.raise e).hRdata = s.hRdata := rfl
@[simp] theorem raise_env (s : State) (e : ErrCode) : (s.raise e).env = s.env := rfl
@[simp] theorem raise_tick (s : State) (e : ErrCode) : (s.raise e).tick = s.tick := rfl

/-! ## `State.beginRead` -/

@[simp] theorem beginRead_seq (s : State) : s.beginRead.seq = .drvOut := rfl
@[simp] theorem beginRead_err (s : State) : s.beginRead.err = .noError := rfl
@[simp] theorem beginRead_variant (s : State) : s.beginRead.variant = s.variant := rfl
@[simp] theorem beginRead_dir (s : State) : s.beginRead.dir = s.dir := rfl
@[simp] theorem beginRead_dout (s : State) : s.beginRead.dout = s.dout := rfl
@[simp] theorem beginRead_prev (s : State) : s.beginRead.prev = false := rfl
@[simp] theorem beginRead_anchor (s : State) : s.beginRead.anchor = 0 := rfl
@[simp] theorem beginRead_t0 (s : State) : s.beginRead.t0 = 0 := rfl
@[simp] theorem beginRead_iter (s : State) : s.beginRead.iter = 0 := rfl
@[simp] theorem beginRead_lcnt (s : State) : s.beginRead.lcnt = 0 := rfl
@[simp] theorem beginRead_hcnt (s : State) : s.beginRead.hcnt = 0 := rfl
@[simp] theorem beginRead_low (s : State) : s.beginRead.low = Vector.replicate 64 0 := rfl
@[simp] theorem beginRead_high (s : State) : s.beginRead.high = Vector.replicate 64 0 := rfl
@[simp] theorem beginRead_skipn (s : State) : s.beginRead.skipn = 0 := rfl
@[simp] theorem beginRead_zfirst (s : State) : s.beginRead.zfirst = false := rfl
@[simp] theorem beginRead_bitidx (s : State) : s.beginRead.bitidx = 0 := rfl
@[simp] theorem beginRead_b0 (s : State) : s.beginRead.b0 = 0 := rfl
@[simp] theorem beginRead_b1 (s : State) : s.beginRead.b1 = 0 := rfl
@[simp] theorem beginRead_b2 (s : State) : s.beginRead.b2 = 0 := rfl
@[simp] theorem beginRead_b3 (s : State) : s.beginRead.b3 = 0 := rfl
@[simp] theorem beginRead_b4 (s : State) : s.beginRead.b4 = 0 := rfl
@[simp] theorem beginRead_sum (s : State) : s.beginRead.sum = 0 := rfl
@[simp] theorem beginRead_temp (s : State) : s.beginRead.temp = 0 := rfl
@[simp] theorem beginRead_hum (s : State) : s.beginRead.hum = 0 := rfl
@[simp] theorem beginRead_params (s : State) : s.beginRead.params = s.params := rfl
@[simp] theorem beginRead_ports (s : State) : s.beginRead.ports = s.ports := rfl
@[simp] theorem beginRead_hRdata (s : State) : s.beginRead.hRdata = s.hRdata := rfl
@[simp] theorem beginRead_env (s : State) : s.beginRead.env = s.env := rfl
@[simp] theorem beginRead_tick (s : State) : s.beginRead.tick = s.tick := rfl

/-! ## `State.resetRegisters` -/

@[simp] theorem resetRegisters_seq (s : State) : s.resetRegisters.seq = .idle := rfl
@[simp] theorem resetRegisters_err (s : State) : s.resetRegisters.err = .noError := rfl
@[simp] theorem resetRegisters_variant (s : State) : s.resetRegisters.variant = variantOfStrap s.ports.variantSel := rfl
@[simp] theorem resetRegisters_dir (s : State) : s.resetRegisters.dir = false := rfl
@[simp] theorem resetRegisters_dout (s : State) : s.resetRegisters.dout = false := rfl
@[simp] theorem resetRegisters_prev (s : State) : s.resetRegisters.prev = false := rfl
@[simp] theorem resetRegisters_anchor (s : State) : s.resetRegisters.anchor = 0 := rfl
@[simp] theorem resetRegisters_t0 (s : State) : s.resetRegisters.t0 = 0 := rfl
@[simp] theorem resetRegisters_iter (s : State) : s.resetRegisters.iter = 0 := rfl
@[simp] theorem resetRegisters_lcnt (s : State) : s.resetRegisters.lcnt = 0 := rfl
@[simp] theorem resetRegisters_hcnt (s : State) : s.resetRegisters.hcnt = 0 := rfl
@[simp] theorem resetRegisters_low (s : State) : s.resetRegisters.low = Vector.replicate 64 0 := rfl
@[simp] theorem resetRegisters_high (s : State) : s.resetRegisters.high = Vector.replicate 64 0 := rfl
@[simp] theorem resetRegisters_skipn (s : State) : s.resetRegisters.skipn = 0 := rfl
@[simp] theorem resetRegisters_zfirst (s : State) : s.resetRegisters.zfirst = false := rfl
@[simp] theorem resetRegisters_bitidx (s : State) : s.resetRegisters.bitidx = 0 := rfl
@[simp] theorem resetRegisters_b0 (s : State) : s.resetRegisters.b0 = 0 := rfl
@[simp] theorem resetRegisters_b1 (s : State) : s.resetRegisters.b1 = 0 := rfl
@[simp] theorem resetRegisters_b2 (s : State) : s.resetRegisters.b2 = 0 := rfl
@[simp] theorem resetRegisters_b3 (s : State) : s.resetRegisters.b3 = 0 := rfl
@[simp] theorem resetRegisters_b4 (s : State) : s.resetRegisters.b4 = 0 := rfl
@[simp] theorem resetRegisters_sum (s : State) : s.resetRegisters.sum = 0 := rfl
@[simp] theorem resetRegisters_temp (s : State) : s.resetRegisters.temp = 0 := rfl
@[simp] theorem resetRegisters_hum (s : State) : s.resetRegisters.hum = 0 := rfl
@[simp] theorem resetRegisters_params (s : State) : s.resetRegisters.params = s.params := rfl
@[simp] theorem resetRegisters_ports (s : State) : s.resetRegisters.ports = s.ports := rfl
@[simp] theorem resetRegisters_hRdata (s : State) : s.resetRegisters.hRdata = s.hRdata := rfl
@[simp] theorem resetRegisters_env (s : State) : s.resetRegisters.env = s.env := rfl
@[simp] theorem resetRegisters_tick (s : State) : s.resetRegisters.tick = s.tick := rfl

/-! ## `State.withNextPorts` -/

@[simp] theorem withNextPorts_seq (s : State) (p : Ports) : (s.withNextPorts p).seq = s.seq := rfl
@[simp] theorem withNextPorts_err (s : State) (p : Ports) : (s.withNextPorts p).err = s.err := rfl
@[simp] theorem withNextPorts_variant (s : State) (p : Ports) : (s.withNextPorts p).variant = s.variant := rfl
@[simp] theorem withNextPorts_dir (s : State) (p : Ports) : (s.withNextPorts p).dir = s.dir := rfl
@[simp] theorem withNextPorts_dout (s : State) (p : Ports) : (s.withNextPorts p).dout = s.dout := rfl
@[simp] theorem withNextPorts_prev (s : State) (p : Ports) : (s.withNextPorts p).prev = s.prev := rfl
@[simp] theorem withNextPorts_anchor (s : State) (p : Ports) : (s.withNextPorts p).anchor = s.anchor := rfl
@[simp] theorem withNextPorts_t0 (s : State) (p : Ports) : (s.withNextPorts p).t0 = s.t0 := rfl
@[simp] theorem withNextPorts_iter (s : State) (p : Ports) : (s.withNextPorts p).iter = s.iter := rfl
@[simp] theorem withNextPorts_lcnt (s : State) (p : Ports) : (s.withNextPorts p).lcnt = s.lcnt := rfl
@[simp] theorem withNextPorts_hcnt (s : State) (p : Ports) : (s.withNextPorts p).hcnt = s.hcnt := rfl
@[simp] theorem withNextPorts_low (s : State) (p : Ports) : (s.withNextPorts p).low = s.low := rfl
@[simp] theorem withNextPorts_high (s : State) (p : Ports) : (s.withNextPorts p).high = s.high := rfl
@[simp] theorem withNextPorts_skipn (s : State) (p : Ports) : (s.withNextPorts p).skipn = s.skipn := rfl
@[simp] theorem withNextPorts_zfirst (s : State) (p : Ports) : (s.withNextPorts p).zfirst = s.zfirst := rfl
@[simp] theorem withNextPorts_bitidx (s : State) (p : Ports) : (s.withNextPorts p).bitidx = s.bitidx := rfl
@[simp] theorem withNextPorts_b0 (s : State) (p : Ports) : (s.withNextPorts p).b0 = s.b0 := rfl
@[simp] theorem withNextPorts_b1 (s : State) (p : Ports) : (s.withNextPorts p).b1 = s.b1 := rfl
@[simp] theorem withNextPorts_b2 (s : State) (p : Ports) : (s.withNextPorts p).b2 = s.b2 := rfl
@[simp] theorem withNextPorts_b3 (s : State) (p : Ports) : (s.withNextPorts p).b3 = s.b3 := rfl
@[simp] theorem withNextPorts_b4 (s : State) (p : Ports) : (s.withNextPorts p).b4 = s.b4 := rfl
@[simp] theorem withNextPorts_sum (s : State) (p : Ports) : (s.withNextPorts p).sum = s.sum := rfl
@[simp] theorem withNextPorts_temp (s : State) (p : Ports) : (s.withNextPorts p).temp = s.temp := rfl
@[simp] theorem withNextPorts_hum (s : State) (p : Ports) : (s.withNextPorts p).hum = s.hum := rfl
@[simp] theorem withNextPorts_params (s : State) (p : Ports) : (s.withNextPorts p).params = s.params := rfl
@[simp] theorem withNextPorts_ports (s : State) (p : Ports) : (s.withNextPorts p).ports = s.ports := rfl
@[simp] theorem withNextPorts_hRdata (s : State) (p : Ports) : (s.withNextPorts p).hRdata = s.hRdata := rfl
@[simp] theorem withNextPorts_env (s : State) (p : Ports) : (s.withNextPorts p).env = p :: s.env.tail := rfl
@[simp] theorem withNextPorts_tick (s : State) (p : Ports) : (s.withNextPorts p).tick = s.tick := rfl

end Sys2Proof.Machine
end

