-- ==== Sys2Proof/Laws/Decode.lean ====
section
/-! SUPPORT. What the decoder of a step answers, said once: the host operation by the four host ports, and the
operations of a cycle. -/

namespace Sys2Proof

/-- A concatenation of four parts, bit by bit: the last part is lowest. -/
theorem hostAccessWord_getLsbD (x y : Bool) (a : BitVec 8) (v : Word) (i : Nat) :
    (hostAccessWord x y a v).getLsbD i =
      if i < 32 then v.getLsbD i else if i < 40 then a.getLsbD (i - 32)
      else if i = 40 then y else if i = 41 then x else false := by
  unfold hostAccessWord
  rw [show (BitVec.ofBool x ++ BitVec.ofBool y ++ a ++ v : BitVec 42).getLsbD i = _ from BitVec.getLsbD_append,
    show (BitVec.ofBool x ++ BitVec.ofBool y ++ a : BitVec 10).getLsbD (i - 32) = _ from BitVec.getLsbD_append,
    show (BitVec.ofBool x ++ BitVec.ofBool y : BitVec 2).getLsbD (i - 32 - 8) = _ from BitVec.getLsbD_append]
  by_cases h32 : i < 32
  · simp [h32]
  by_cases h40 : i < 40
  · have : i - 32 < 8 := by omega
    simp [h32, h40, this]
  by_cases e40 : i = 40
  · subst e40; simp
  by_cases e41 : i = 41
  · subst e41; simp
  have h1 : ¬ i - 32 < 8 := by omega
  have h2 : ¬ i - 32 - 8 < 1 := by omega
  have h3 : 1 ≤ i - 32 - 8 - 1 := by omega
  simp only [h32, h40, e40, e41, h1, h2, if_false]
  exact BitVec.getLsbD_of_ge _ _ h3

theorem hostAccessWord_valid (x y : Bool) (a : BitVec 8) (v : Word) :
    (hostAccessWord x y a v).getLsbD 41 = x := by
  rw [hostAccessWord_getLsbD]; rfl

theorem hostAccessWord_write (x y : Bool) (a : BitVec 8) (v : Word) :
    (hostAccessWord x y a v).getLsbD 40 = y := by
  rw [hostAccessWord_getLsbD]; rfl

theorem hostAccessWord_addr (x y : Bool) (a : BitVec 8) (v : Word) :
    (hostAccessWord x y a v).extractLsb' 32 8 = a := by
  apply BitVec.eq_of_getLsbD_eq
  intro i hi
  have h1 : 32 + i < 40 := by omega
  simp [hostAccessWord_getLsbD, hi, h1]

theorem hostAccessWord_wdata (x y : Bool) (a : BitVec 8) (v : Word) :
    (hostAccessWord x y a v).extractLsb' 0 32 = v := by
  apply BitVec.eq_of_getLsbD_eq
  intro i hi
  simp [hostAccessWord_getLsbD, hi]

/-- R72 and R61 in one: the host operation of a step by its ports. -/
theorem hostOp_eq (p : Ports) :
    hostOp p =
      if p.hValid = true then
        if p.hWrite = true then
          if p.hAddr = 0 then some (if p.hWdata.getLsbD 0 = true then .start else .nop)
          else some (.wr p.hAddr p.hWdata)
        else some (.rd p.hAddr)
      else none := by
  unfold hostOp decodeHostAccess decodeCommand
  rw [hostAccessWord_valid, hostAccessWord_write, hostAccessWord_addr, hostAccessWord_wdata]
  cases p.hValid <;> cases p.hWrite <;> simp

/-- The host read of a step by its ports. -/
theorem hostRead_eq (p : Ports) :
    hostRead p = if p.hValid = true ∧ p.hWrite = false then some (.rd p.hAddr) else none := by
  unfold hostRead
  rw [hostOp_eq]
  split_ifs <;> simp_all

/-- R62: the code of a `STATE` value decodes to that value. -/
theorem sequencerOfCode_code (q : Sequencer) : sequencerOfCode q.code = .ok q := by
  cases q <;> rfl

/-- R62, R69: the operation that a `STATE` value selects is what its code decodes to. -/
theorem decode_sequencer_code (q : Sequencer) : decode (.sequencer q.code) = .ok (engineOp q) := by
  cases q <;> rfl

/-- R69: the operations of a step with `rst = 0`. -/
theorem cycleOps_run (p : Ports) (q : Sequencer) (h : p.rst = false) :
    cycleOps p q = (hostOp p).toList ++ [engineOp q] := by
  simp [cycleOps, h]

/-- R69, R160: the operations of a step with `rst = 1`. -/
theorem cycleOps_reset (p : Ports) (q : Sequencer) (h : p.rst = true) :
    cycleOps p q = (hostRead p).toList ++ [.reset] := by
  simp [cycleOps, h]

end Sys2Proof
end

