-- ==== Sys2Proof/Laws/Words.lean ====
section
/-! SUPPORT. The words of the host register map as numbers: each lemma is the rule's table of bit places read as a sum
of field values. -/

namespace Sys2Proof.Machine

/-- A concatenation as a number. -/
theorem toNat_append_sum {n m : Nat} (x : BitVec n) (y : BitVec m) :
    (x ++ y).toNat = x.toNat * 2 ^ m + y.toNat := by
  rw [BitVec.toNat_append, ← Nat.shiftLeft_add_eq_or_of_lt y.isLt, Nat.shiftLeft_eq]

/-- `STATUS` (R44). -/
theorem statusWord_toNat (s : State) :
    s.statusWord.toNat = s.busy.toNat + 2 * s.doneF.toNat + 4 * s.okF.toNat
      + 16 * s.err.code.toNat + 256 * s.seq.code.toNat := by
  unfold State.statusWord
  cases s.seq <;> cases s.err <;> cases s.busy <;> cases s.doneF <;> cases s.okF <;> rfl

/-- `VARIANT` (R42). -/
theorem variantWord_toNat (s : State) : s.variantWord.toNat = s.variant.code.toNat := by
  unfold State.variantWord
  cases s.variant <;> rfl

/-- `FRAME0` (R42). -/
theorem frame0Word_toNat (s : State) :
    s.frame0Word.toNat = s.b0.toNat * 2 ^ 24 + s.b1.toNat * 2 ^ 16 + s.b2.toNat * 2 ^ 8 + s.b3.toNat := by
  unfold State.frame0Word
  rw [show (s.b0 ++ s.b1 ++ s.b2 ++ s.b3 : BitVec 32).toNat = _ from toNat_append_sum _ _,
    show (s.b0 ++ s.b1 ++ s.b2 : BitVec 24).toNat = _ from toNat_append_sum _ _,
    show (s.b0 ++ s.b1 : BitVec 16).toNat = _ from toNat_append_sum _ _]
  omega

/-- `FRAME1` (R42). -/
theorem frame1Word_toNat (s : State) :
    s.frame1Word.toNat = s.b4.toNat + s.sum.toNat * 2 ^ 8 := by
  unfold State.frame1Word
  rw [show ((0 : BitVec 16) ++ s.sum ++ s.b4 : BitVec 32).toNat = _ from toNat_append_sum _ _,
    show ((0 : BitVec 16) ++ s.sum : BitVec 24).toNat = _ from toNat_append_sum _ _]
  simp
  omega

/-- `COUNTS` (R42). -/
theorem countsWord_toNat (s : State) :
    s.countsWord.toNat = s.lcnt.toNat + s.hcnt.toNat * 2 ^ 8 := by
  unfold State.countsWord
  rw [show ((0 : BitVec 16) ++ s.hcnt ++ s.lcnt : BitVec 32).toNat = _ from toNat_append_sum _ _,
    show ((0 : BitVec 16) ++ s.hcnt : BitVec 24).toNat = _ from toNat_append_sum _ _]
  simp
  omega

/-- `DBG` (R45). -/
theorem dbgWord_toNat (s : State) :
    s.dbgWord.toNat = s.skipn.toNat + s.bitidx.toNat * 2 ^ 8 + s.zfirst.toNat * 2 ^ 16
      + s.prev.toNat * 2 ^ 17 + s.dir.toNat * 2 ^ 18 + s.dout.toNat * 2 ^ 19 := by
  unfold State.dbgWord
  rw [show ((0 : BitVec 12) ++ BitVec.ofBool s.dout ++ BitVec.ofBool s.dir ++ BitVec.ofBool s.prev ++
      BitVec.ofBool s.zfirst ++ (0 : BitVec 2) ++ s.bitidx ++ s.skipn : BitVec 32).toNat = _ from toNat_append_sum _ _,
    show ((0 : BitVec 12) ++ BitVec.ofBool s.dout ++ BitVec.ofBool s.dir ++ BitVec.ofBool s.prev ++
      BitVec.ofBool s.zfirst ++ (0 : BitVec 2) ++ s.bitidx : BitVec 24).toNat = _ from toNat_append_sum _ _]
  have h : ((0 : BitVec 12) ++ BitVec.ofBool s.dout ++ BitVec.ofBool s.dir ++ BitVec.ofBool s.prev ++
      BitVec.ofBool s.zfirst ++ (0 : BitVec 2) : BitVec 18).toNat =
      s.zfirst.toNat * 2 ^ 2 + s.prev.toNat * 2 ^ 3 + s.dir.toNat * 2 ^ 4 + s.dout.toNat * 2 ^ 5 := by
    cases s.dout <;> cases s.dir <;> cases s.prev <;> cases s.zfirst <;> rfl
  rw [h]
  omega

/-- `RegRead` reads registers and parameters only (R42, R48): two states that agree in them read alike. -/
theorem regRead_congr (s t : State) (h : sameRegisters s t) (a : BitVec 8) : t.regRead a = s.regRead a := by
  rw [h]; rfl

/-! ## The register of each address (R42) -/

@[simp] theorem regRead_cmd (s : State) : s.regRead 0#8 = 0 := rfl
@[simp] theorem regRead_status (s : State) : s.regRead 1#8 = s.statusWord := rfl
@[simp] theorem regRead_variant (s : State) : s.regRead 2#8 = s.variantWord := rfl
@[simp] theorem regRead_temp (s : State) : s.regRead 3#8 = s.temp := rfl
@[simp] theorem regRead_hum (s : State) : s.regRead 4#8 = s.hum := rfl
@[simp] theorem regRead_frame0 (s : State) : s.regRead 5#8 = s.frame0Word := rfl
@[simp] theorem regRead_frame1 (s : State) : s.regRead 6#8 = s.frame1Word := rfl
@[simp] theorem regRead_counts (s : State) : s.regRead 7#8 = s.countsWord := rfl
@[simp] theorem regRead_iter (s : State) : s.regRead 8#8 = s.iter := rfl
@[simp] theorem regRead_dbg (s : State) : s.regRead 9#8 = s.dbgWord := rfl
@[simp] theorem regRead_anchor (s : State) : s.regRead 10#8 = s.anchor := rfl
@[simp] theorem regRead_t0 (s : State) : s.regRead 11#8 = s.t0 := rfl

/-- The addresses from `0x0C` on are the two windows and reserved addresses (R42, R47). -/
theorem regRead_from_0C (s : State) (a : BitVec 8) (h : 0x0C ≤ a.toNat) :
    s.regRead a = if 0x80 ≤ a.toNat then (s.highAt (a.toNat - 0x80)).getD 0
      else if 0x40 ≤ a.toNat then (s.lowAt (a.toNat - 0x40)).getD 0 else 0 := by
  unfold State.regRead
  generalize a.toNat = n at h ⊢
  split <;> first | omega | rfl

/-- An address below `0x0C` is one of twelve. -/
theorem addr_below_0C (a : BitVec 8) (h : a.toNat < 0x0C) :
    a ∈ [(0x00 : BitVec 8), 0x01, 0x02, 0x03, 0x04, 0x05, 0x06, 0x07, 0x08, 0x09, 0x0A, 0x0B] := by
  revert a
  decide

/-- A word of the `LOW` window (R42). -/
theorem regRead_low (s : State) (i : Nat) (h : i < 64) :
    s.regRead (BitVec.ofNat 8 (0x40 + i)) = (s.lowAt i).getD 0 := by
  have e : (BitVec.ofNat 8 (0x40 + i)).toNat = 0x40 + i := by simp; omega
  rw [regRead_from_0C _ _ (by omega), e, if_neg (by omega), if_pos (by omega), Nat.add_sub_cancel_left]

/-- A word of the `HIGH` window (R42). -/
theorem regRead_high (s : State) (i : Nat) (h : i < 64) :
    s.regRead (BitVec.ofNat 8 (0x80 + i)) = (s.highAt i).getD 0 := by
  have e : (BitVec.ofNat 8 (0x80 + i)).toNat = 0x80 + i := by simp; omega
  rw [regRead_from_0C _ _ (by omega), e, if_pos (by omega), Nat.add_sub_cancel_left]

end Sys2Proof.Machine
end

