-- ==== Sys2Proof/Laws/Ops.lean ====
section
/-! SUPPORT. One lemma per shared operation that says once what it does. -/

namespace Sys2Proof.Machine

/-! ## Numbers and registers -/

/-- A number that fits is stored as it is. -/
theorem narrow_of_fits (tick w : Nat) (v : Int) (h0 : 0 ≤ v) (h : v < 2 ^ w) : narrow tick w v = BitVec.ofInt w v := by
  have h' : v.toNat < 2 ^ w := by
    have : ((2 ^ w : Nat) : Int) = 2 ^ w := by push_cast; rfl
    omega
  exact if_pos ⟨h0, h'⟩

/-- A natural number that fits reads back as itself. -/
theorem narrow_toNat (tick w n : Nat) (h : n < 2 ^ w) : (narrow tick w (n : Int)).toNat = n := by
  have h' : (n : Int) < 2 ^ w := by exact_mod_cast h
  rw [narrow_of_fits _ _ _ (Int.natCast_nonneg n) h', BitVec.ofInt_natCast, BitVec.toNat_ofNat,
    Nat.mod_eq_of_lt h]

/-- R92, R100: a time difference is taken modulo 2^32. -/
theorem elapsedUs_toNat (now since : Word) :
    (elapsedUs now since).toNat = (now.toNat + 2 ^ 32 - since.toNat) % 2 ^ 32 := by
  unfold elapsedUs
  rw [BitVec.toNat_sub]
  congr 1
  have := since.isLt
  omega

/-- R68. -/
theorem durationBit_iff (d : Word) : durationBit d = true ↔ 30 ≤ d.toNat := by
  unfold durationBit
  exact decide_eq_true_iff

/-- R112: the new low bit. -/
theorem shiftInBit_getLsbD_zero (b : Byte) (x : Bool) : (shiftInBit b x).getLsbD 0 = x := by
  cases x <;> simp [shiftInBit]

/-- R112: every other bit comes from one place lower. -/
theorem shiftInBit_getLsbD_succ (b : Byte) (x : Bool) (p : Nat) (hp : p + 1 < 8) :
    (shiftInBit b x).getLsbD (p + 1) = b.getLsbD p := by
  have hp' : p < 8 := by omega
  cases x <;> simp [shiftInBit, hp, hp', BitVec.getLsbD_eq_getElem]

/-- R112 as a number. -/
theorem shiftInBit_toNat (b : Byte) (x : Bool) : (shiftInBit b x).toNat = (2 * b.toNat + x.toNat) % 256 := by
  revert b; cases x <;> decide

/-- R121: the checksum is the sum modulo 256. -/
theorem checksum_toNat (b0 b1 b2 b3 : Byte) :
    (checksum b0 b1 b2 b3).toNat = (b0.toNat + b1.toNat + b2.toNat + b3.toNat) % 256 := by
  simp [checksum]

/-! ## Frame bytes -/

/-- A frame byte reads what was written to it. -/
@[simp] theorem frameByte_setFrameByte_same (s : State) (k : Fin 5) (b : Byte) :
    (s.setFrameByte k b).frameByte k = b := by
  fin_cases k <;> rfl

/-- A frame byte keeps its value when another is written. -/
theorem frameByte_setFrameByte_other (s : State) (k j : Fin 5) (b : Byte) (h : j ≠ k) :
    (s.setFrameByte k b).frameByte j = s.frameByte j := by
  fin_cases k <;> fin_cases j <;> first | rfl | exact absurd rfl h

/-- Writing a frame byte changes the five frame bytes and nothing else. -/
theorem setFrameByte_frame (s : State) (k : Fin 5) (b : Byte) :
    s.setFrameByte k b =
      { s with b0 := (s.setFrameByte k b).b0, b1 := (s.setFrameByte k b).b1, b2 := (s.setFrameByte k b).b2,
               b3 := (s.setFrameByte k b).b3, b4 := (s.setFrameByte k b).b4 } := by
  fin_cases k <;> rfl

/-! ## Buffers -/

/-- A recorded entry reads as its duration. -/
theorem buffer_read_same (b : Buffer) (i : Nat) (v : Word) (h : i < 64) : (b.setIfInBounds i v)[i]? = some v := by
  simp [h]

/-- Every other entry reads as before. -/
theorem buffer_read_other (b : Buffer) (i j : Nat) (v : Word) (h : i ≠ j) : (b.setIfInBounds i v)[j]? = b[j]? := by
  simp [h]

/-- A cleared buffer reads 0 everywhere. -/
theorem buffer_cleared (i : Nat) : ((Vector.replicate 64 (0 : Word))[i]?).getD 0 = 0 := by
  by_cases h : i < 64 <;> simp [h]

/-- The canonical form of a cleared buffer. -/
theorem zeroFrom_cleared (n : Nat) : Buffer.zeroFrom (Vector.replicate 64 0) n := fun i _ => buffer_cleared i

/-- Recording entry `n` keeps the canonical form one entry further. -/
theorem zeroFrom_record (b : Buffer) (n : Nat) (v : Word) (h : Buffer.zeroFrom b n) :
    Buffer.zeroFrom (b.setIfInBounds n v) (n + 1) := by
  intro i hi
  rw [buffer_read_other _ _ _ _ (by omega)]
  exact h i (by omega)

/-! ## Recording -/

/-- What recording a low phase can do (R96, R98). -/
theorem recordLow_cases (s : State) (d : Word) :
    (s.lcnt.toNat < s.cap ∧
      s.recordLow d = { s with low := s.low.setIfInBounds s.lcnt.toNat d, lcnt := s.lcnt + 1 }) ∨
    (s.cap ≤ s.lcnt.toNat ∧ s.recordLow d = s) := by
  unfold State.recordLow
  split
  · exact .inl ⟨‹_›, rfl⟩
  · exact .inr ⟨Nat.le_of_not_lt ‹_›, rfl⟩

/-- What recording a high phase can do (R97, R98). -/
theorem recordHigh_cases (s : State) (d : Word) :
    (s.hcnt.toNat < s.cap ∧
      s.recordHigh d = { s with high := s.high.setIfInBounds s.hcnt.toNat d, hcnt := s.hcnt + 1 }) ∨
    (s.cap ≤ s.hcnt.toNat ∧ s.recordHigh d = s) := by
  unfold State.recordHigh
  split
  · exact .inl ⟨‹_›, rfl⟩
  · exact .inr ⟨Nat.le_of_not_lt ‹_›, rfl⟩

/-- What an observed transition can do (R95 to R98). -/
theorem observe_cases (s : State) :
    (s.prev = false ∧ s.lcnt.toNat < s.cap ∧
      s.observe = { s with low := s.low.setIfInBounds s.lcnt.toNat (s.ports.ts - s.anchor), lcnt := s.lcnt + 1
                           anchor := s.ports.ts, prev := s.ports.lineIn }) ∨
    (s.prev = false ∧ s.cap ≤ s.lcnt.toNat ∧
      s.observe = { s with anchor := s.ports.ts, prev := s.ports.lineIn }) ∨
    (s.prev = true ∧ s.hcnt.toNat < s.cap ∧
      s.observe = { s with high := s.high.setIfInBounds s.hcnt.toNat (s.ports.ts - s.anchor), hcnt := s.hcnt + 1
                           anchor := s.ports.ts, prev := s.ports.lineIn }) ∨
    (s.prev = true ∧ s.cap ≤ s.hcnt.toNat ∧
      s.observe = { s with anchor := s.ports.ts, prev := s.ports.lineIn }) := by
  cases hp : s.prev
  · have ho : s.observe = { s.recordLow (elapsedUs s.ports.ts s.anchor) with
        anchor := s.ports.ts, prev := s.ports.lineIn } := by
      unfold State.observe; rw [hp]; rfl
    rw [ho]
    rcases recordLow_cases s (elapsedUs s.ports.ts s.anchor) with ⟨h, e⟩ | ⟨h, e⟩ <;> rw [e]
    · exact .inl ⟨rfl, h, rfl⟩
    · exact .inr (.inl ⟨rfl, h, rfl⟩)
  · have ho : s.observe = { s.recordHigh (elapsedUs s.ports.ts s.anchor) with
        anchor := s.ports.ts, prev := s.ports.lineIn } := by
      unfold State.observe; rw [hp]; rfl
    rw [ho]
    rcases recordHigh_cases s (elapsedUs s.ports.ts s.anchor) with ⟨h, e⟩ | ⟨h, e⟩ <;> rw [e]
    · exact .inr (.inr (.inl ⟨rfl, h, rfl⟩))
    · exact .inr (.inr (.inr ⟨rfl, h, rfl⟩))

/-- What leaving the loop can do (R99). -/
theorem leaveLoop_cases (s : State) :
    ((41 ≤ s.hcnt.toNat ∨ s.pollBudget ≤ s.iter.toNat) ∧ s.leaveLoop = { s with seq := .chkCnt }) ∨
    (s.hcnt.toNat < 41 ∧ s.iter.toNat < s.pollBudget ∧ s.leaveLoop = s) := by
  unfold State.leaveLoop
  split
  · exact .inl ⟨‹_›, rfl⟩
  · rename_i h
    simp only [Config.phaseTarget, not_or, Nat.not_le] at h
    exact .inr ⟨h.1, h.2, rfl⟩

/-- Counting an iteration writes `ITER` and nothing else. -/
theorem countIteration_frame (s : State) : s.countIteration = { s with iter := s.countIteration.iter } := rfl

/-- An iteration counted, where the count fits (R19). -/
theorem countIteration_of_fits (s : State) (h : s.iter.toNat + 1 < 2 ^ 32) :
    s.countIteration = { s with iter := s.iter + 1 } := by
  have e : narrow s.tick 32 ((s.iter.toNat : Int) + 1) = s.iter + 1 := by
    apply BitVec.eq_of_toNat_eq
    rw [← Int.natCast_succ, narrow_toNat _ _ _ h, BitVec.toNat_add]
    exact (Nat.mod_eq_of_lt h).symm
  unfold State.countIteration
  rw [e]

/-! ## Start, rest -/

/-- What the operation `START` can do (R82). -/
theorem acceptStart_cases (s : State) :
    ((s.seq = .idle ∨ s.seq = .done) ∧ s.acceptStart = s.beginRead) ∨
    (s.seq ≠ .idle ∧ s.seq ≠ .done ∧ s.acceptStart = s) := by
  unfold State.acceptStart State.atRest
  by_cases h : s.seq = .idle ∨ s.seq = .done
  · exact .inl ⟨h, by simp [h]⟩
  · exact .inr ⟨fun e => h (.inl e), fun e => h (.inr e), by simp [h]⟩

/-- Beginning a read twice is beginning it once: why the host operation `START` and the rest operation of the same step
agree (log 5). -/
@[simp] theorem beginRead_beginRead (s : State) : s.beginRead.beginRead = s.beginRead := rfl

/-- The host operation of a step is `START` exactly when the host writes a word with bit 0 = 1 to `CMD` (R61). -/
theorem startNow_iff (p : Ports) :
    startNow p = true ↔ p.hValid = true ∧ p.hWrite = true ∧ p.hAddr = 0 ∧ p.hWdata.getLsbD 0 = true := by
  unfold startNow
  rw [hostOp_eq]
  split_ifs <;> simp_all

/-- What the engine at rest can do (R88). -/
theorem restStep_cases (s : State) :
    (startNow s.ports = true ∧ s.restStep = s.beginRead) ∨ (startNow s.ports = false ∧ s.restStep = s) := by
  unfold State.restStep
  cases h : startNow s.ports <;> simp

/-! ## Selection and assembly -/

/-- What the selected duration is (R113, R115). -/
theorem selectedDuration_cases (s : State) (j : Nat) :
    (j = 0 ∧ s.zfirst = true ∧ s.selectedDuration j = some 0) ∨
    (¬ (j = 0 ∧ s.zfirst = true) ∧ s.skipn.toNat + j < s.cap ∧
      s.selectedDuration j = s.high[s.skipn.toNat + j]?) ∨
    (¬ (j = 0 ∧ s.zfirst = true) ∧ s.cap ≤ s.skipn.toNat + j ∧ s.selectedDuration j = none) := by
  unfold State.selectedDuration State.highAt
  by_cases h : j = 0 ∧ s.zfirst = true
  · exact .inl ⟨h.1, h.2, by simp [h]⟩
  · by_cases hc : s.skipn.toNat + j < s.cap
    · exact .inr (.inl ⟨h, hc, by simp [h, hc]⟩)
    · exact .inr (.inr ⟨h, by omega, by simp [h, hc]⟩)

/-- What assembling a bit does (R112): the byte, the index, and the state after the fortieth. -/
theorem assembleBit_eq (s : State) (k : Fin 5) (x : Bool) :
    s.assembleBit k x =
      { s.setFrameByte k (shiftInBit (s.frameByte k) x) with
        bitidx := s.bitidx + 1
        seq := if s.bitidx.toNat + 1 = 40 then .chkSum else s.seq } := by
  unfold State.assembleBit
  by_cases h : s.bitidx.toNat + 1 = 40
  · rw [if_pos (show s.bitidx.toNat + 1 = Config.frameBits from h), if_pos h]
    rfl
  · rw [if_neg (show ¬ s.bitidx.toNat + 1 = Config.frameBits from h), if_neg h, setFrameByte_frame]

end Sys2Proof.Machine
end

