-- ==== Sys2Proof/Laws/PerInstr.lean ====
section
/-! SUPPORT. Statements about the operations as syntax, one lemma per constructor. -/

namespace Sys2Proof.Laws.EncodeDecode

/-- The operation is read back from its word, and from its word's number in the opcode table. -/
def Statement (i : Instr) : Prop :=
  i.wellFormed = true →
    decode (encode i) = .ok i ∧
    decodeTableWord (numberOfOpWord (encode i)).1 (numberOfOpWord (encode i)).2 = some i

/-- A 42-bit word is read back from its number. -/
theorem opWordOfNumber_hostAccess (w : BitVec 42) : opWordOfNumber 48 w.toNat = .ok (.hostAccess w) := by
  unfold opWordOfNumber
  rw [if_neg (by omega), if_neg (by omega), if_neg (by omega), if_pos (by omega), if_pos w.isLt,
    BitVec.ofNat_toNat, BitVec.setWidth_eq]

theorem rd (a : BitVec 8) : Statement (.rd a) := by
  intro _
  have h : decode (encode (.rd a)) = .ok (.rd a) := by
    simp only [encode, decode, decodeHostAccess, hostAccessWord_valid, hostAccessWord_write, hostAccessWord_addr,
      if_true, Bool.false_eq_true, if_false]
  refine ⟨h, ?_⟩
  simp only [decodeTableWord, encode, numberOfOpWord, opWordOfNumber_hostAccess]
  exact congrArg Except.toOption h

theorem wr (a : BitVec 8) (v : Word) : Statement (.wr a v) := by
  intro _
  have h : decode (encode (.wr a v)) = .ok (.wr a v) := by
    simp only [encode, decode, decodeHostAccess, hostAccessWord_valid, hostAccessWord_write, hostAccessWord_addr,
      hostAccessWord_wdata, if_true]
  refine ⟨h, ?_⟩
  simp only [decodeTableWord, encode, numberOfOpWord, opWordOfNumber_hostAccess]
  exact congrArg Except.toOption h

theorem nop : Statement .nop := fun _ => ⟨rfl, by decide⟩
theorem start : Statement .start := fun _ => ⟨rfl, by decide⟩
theorem idle : Statement .idle := fun _ => ⟨rfl, by decide⟩
theorem drvOut : Statement .drvOut := fun _ => ⟨rfl, by decide⟩
theorem drvLow : Statement .drvLow := fun _ => ⟨rfl, by decide⟩
theorem hold : Statement .hold := fun _ => ⟨rfl, by decide⟩
theorem relIn : Statement .relIn := fun _ => ⟨rfl, by decide⟩
theorem poll : Statement .poll := fun _ => ⟨rfl, by decide⟩
theorem chkCnt : Statement .chkCnt := fun _ => ⟨rfl, by decide⟩
theorem skip : Statement .skip := fun _ => ⟨rfl, by decide⟩
theorem shift : Statement .shift := fun _ => ⟨rfl, by decide⟩
theorem chkSum : Statement .chkSum := fun _ => ⟨rfl, by decide⟩
theorem conv : Statement .conv := fun _ => ⟨rfl, by decide⟩
theorem done : Statement .done := fun _ => ⟨rfl, by decide⟩
theorem reset : Statement .reset := fun _ => ⟨rfl, by decide⟩

end Sys2Proof.Laws.EncodeDecode
end

