-- ==== Sys2Proof/Laws/Script.lean ====
section
/-! SUPPORT. What the parts of a host program can do: one lemma each, so that a proof does not unfold them. -/

namespace Sys2Proof.Machine

theorem hostStep_eq_some (x : HostAccess) (r t : HostRun) :
    hostStep x r = some t ↔
      ∃ e u, r.rest = e :: t.rest ∧ step (r.state.withNextPorts (x.toPorts e)) = .next u ∧ t.state = u ∧
        t.words = r.words ++ u.hRdata.toList := by
  unfold hostStep
  constructor
  · intro h
    split at h
    · cases h
    · rename_i e es hr
      split at h
      · rename_i u hs
        cases h
        exact ⟨e, u, hr, hs, rfl, rfl⟩
      · cases h
      · cases h
  · rintro ⟨e, u, hr, hs, rfl, hw⟩
    simp only [hr, hs, ← hw]

theorem readWord_eq_some (a : BitVec 8) (r t : HostRun) (w : Word) :
    readWord a r = some (w, t) ↔ hostStep (.read a) r = some t ∧ t.state.hRdata = some w := by
  unfold readWord
  constructor
  · intro h
    obtain ⟨u, hu, h⟩ := Option.bind_eq_some_iff.mp h
    obtain ⟨v, hv, h⟩ := Option.map_eq_some_iff.mp h
    cases h
    exact ⟨hu, hv⟩
  · rintro ⟨h, hw⟩
    rw [h, Option.bind_some, hw, Option.map_some]

theorem waitDone_succ_eq_some (n : Nat) (r : HostRun) (p : Word × HostRun) :
    waitDone (n + 1) r = some p ↔
      ∃ q, readWord 0x01 r = some q ∧
        ((q.1.getLsbD 1 = true ∧ p = q) ∨ (q.1.getLsbD 1 = false ∧ waitDone n q.2 = some p)) := by
  rw [waitDone, Option.bind_eq_some_iff]
  refine exists_congr fun q => and_congr_right fun _ => ?_
  cases q.1.getLsbD 1 <;> simp [eq_comm]

theorem runRead_eq_some (r t : HostRun) (x : ReadResult) :
    runRead r = some (x, t) ↔
      ∃ r1 s r2, hostStep (.write 0x00 1) r = some r1 ∧ waitDone r1.rest.length r1 = some (s, r2) ∧
        finishRead s r2 = some (x, t) := by
  simp [runRead, Option.bind_eq_some_iff]

end Sys2Proof.Machine
end

