-- ==== Sys2Proof/Laws/Step.lean ====
section
/-! SUPPORT. What a step can do, said once, and what the operations of a step leave unchanged. -/

namespace Sys2Proof.Machine

/-- Every operation but `SHIFT` answers a next state, whatever the state. -/
theorem exec_next_of_ne_shift (i : Instr) (s : State) (h : i ≠ .shift) : ∃ t, exec i s = .next t := by
  cases i <;> first | exact ⟨_, rfl⟩ | exact absurd rfl h

/-- What `SHIFT` can answer (R112). -/
theorem execShift_cases (s : State) :
    (∃ (h : s.bitidx.toNat < 40) (d : Word), s.selectedDuration s.bitidx.toNat = some d ∧
      execShift s = .next (s.assembleBit ⟨s.bitidx.toNat / 8, by omega⟩ (durationBit d))) ∨
    (s.bitidx.toNat < 40 ∧ s.selectedDuration s.bitidx.toNat = none ∧ execShift s = .fault .noSuchBufferEntry) ∨
    (40 ≤ s.bitidx.toNat ∧ execShift s = .fault .noSuchFrameByte) := by
  unfold execShift
  by_cases h : s.bitidx.toNat < Config.frameBits
  · rw [dif_pos h]
    cases hd : s.selectedDuration s.bitidx.toNat with
    | some d => exact .inl ⟨h, d, rfl, rfl⟩
    | none => exact .inr (.inl ⟨h, rfl, rfl⟩)
  · rw [dif_neg h]
    exact .inr (.inr ⟨Nat.le_of_not_lt h, rfl⟩)

/-- No operation changes the parameters, the sampled inputs, the script or the step number (R6, R8, R55). -/
theorem exec_keeps_model_fields (i : Instr) (s t : State) (h : exec i s = .next t) :
    t.params = s.params ∧ t.ports = s.ports ∧ t.env = s.env ∧ t.tick = s.tick := by
  have next_inj : ∀ {u : State}, (Host.Outcome.next u : Host.Outcome State Fault Refusal) = .next t → t = u :=
    fun e => (Host.Outcome.next.inj e).symm
  cases i with
  | wr a v =>
    obtain rfl := next_inj h
    rcases acceptStart_cases s with ⟨_, e⟩ | ⟨_, _, e⟩ <;> rw [e] <;> split <;> exact ⟨rfl, rfl, rfl, rfl⟩
  | start =>
    obtain rfl := next_inj h
    rcases acceptStart_cases s with ⟨_, e⟩ | ⟨_, _, e⟩ <;> rw [e] <;> exact ⟨rfl, rfl, rfl, rfl⟩
  | idle =>
    obtain rfl := next_inj h
    rcases restStep_cases s with ⟨_, e⟩ | ⟨_, e⟩ <;> rw [e] <;> exact ⟨rfl, rfl, rfl, rfl⟩
  | done =>
    obtain rfl := next_inj h
    rcases restStep_cases s with ⟨_, e⟩ | ⟨_, e⟩ <;> rw [e] <;> exact ⟨rfl, rfl, rfl, rfl⟩
  | hold =>
    obtain rfl := next_inj h
    split <;> exact ⟨rfl, rfl, rfl, rfl⟩
  | poll =>
    obtain rfl := next_inj h
    rcases leaveLoop_cases (if s.ports.lineIn ≠ s.prev then s.observe else s).countIteration with
      ⟨_, e⟩ | ⟨_, _, e⟩ <;> rw [e] <;> unfold State.countIteration <;> split <;>
      first
      | exact ⟨rfl, rfl, rfl, rfl⟩
      | (rcases observe_cases s with ⟨_, _, e'⟩ | ⟨_, _, e'⟩ | ⟨_, _, e'⟩ | ⟨_, _, e'⟩ <;> rw [e'] <;>
          exact ⟨rfl, rfl, rfl, rfl⟩)
  | chkCnt =>
    obtain rfl := next_inj h
    split <;> exact ⟨rfl, rfl, rfl, rfl⟩
  | shift =>
    rcases execShift_cases s with ⟨_, d, _, e⟩ | ⟨_, _, e⟩ | ⟨_, e⟩
    · obtain rfl := next_inj (e.symm.trans h)
      rw [assembleBit_eq, setFrameByte_frame]
      exact ⟨rfl, rfl, rfl, rfl⟩
    · exact absurd (e.symm.trans h) (by simp)
    · exact absurd (e.symm.trans h) (by simp)
  | chkSum =>
    obtain rfl := next_inj h
    split <;> exact ⟨rfl, rfl, rfl, rfl⟩
  | _ =>
    obtain rfl := next_inj h
    exact ⟨rfl, rfl, rfl, rfl⟩

/-- A single operation as a list. -/
theorem runOps_one (i : Instr) (s : State) : runOps [i] s = exec i s := by
  unfold runOps
  cases exec i s <;> rfl

/-- An operation that answers a next state, then the rest. -/
theorem runOps_cons (i : Instr) (is : List Instr) (s t : State) (h : exec i s = .next t) :
    runOps (i :: is) s = runOps is t := by
  simp [runOps, h]

/-- A step without reset and without a host access runs the engine operation alone. -/
theorem step_alone (s : State) (h : s.nextPorts.rst = false) (hv : hostOp s.nextPorts = none) :
    step s = exec (engineOp s.seq) s.sample := by
  simp [step, cycle, sample_ports, cycleOps_run _ _ h, hv, runOps_one]

/-- A step without reset runs the host operation and then the engine operation of the pre-step `STATE`. -/
theorem step_hosted (s t : State) (i : Instr) (h : s.nextPorts.rst = false) (hv : hostOp s.nextPorts = some i)
    (ht : exec i s.sample = .next t) : step s = exec (engineOp s.seq) t := by
  simp [step, cycle, sample_ports, cycleOps_run _ _ h, hv, runOps_cons _ _ _ _ ht, runOps_one]

/-- A reset step answers a host read and runs `RESET` (R160). -/
theorem step_reset (s : State) (h : s.nextPorts.rst = true) :
    step s = .next { s.sample.resetRegisters with
      hRdata := if s.nextPorts.hValid = true ∧ s.nextPorts.hWrite = false then some (s.regRead s.nextPorts.hAddr)
                else none } := by
  unfold step cycle
  rw [sample_ports, cycleOps_reset _ _ h, hostRead_eq]
  split <;> rfl

/-- What the host operation of a step can do to the sampled state: answer a read, begin a read at rest, nothing. -/
theorem hostOp_cases (s : State) (i : Instr) (hi : hostOp s.ports = some i) :
    (∃ a, i = .rd a ∧ exec i s = .next { s with hRdata := some (s.regRead a) }) ∨
    (startNow s.ports = true ∧ (s.seq = .idle ∨ s.seq = .done) ∧ exec i s = .next s.beginRead) ∨
    (¬ (startNow s.ports = true ∧ (s.seq = .idle ∨ s.seq = .done)) ∧ exec i s = .next s) := by
  rw [hostOp_eq] at hi
  split_ifs at hi with h1 h2 h3 h4
  · cases hi
    have hs : startNow s.ports = true := (startNow_iff _).2 ⟨h1, h2, h3, h4⟩
    rcases acceptStart_cases s with ⟨ha, e⟩ | ⟨ha, hb, e⟩
    · exact .inr (.inl ⟨hs, ha, by simp [exec, execStart, e]⟩)
    · exact .inr (.inr ⟨fun ⟨_, h⟩ => h.elim ha hb, by simp [exec, execStart, e]⟩)
  · cases hi
    have hs : startNow s.ports ≠ true := fun h => h4 ((startNow_iff _).1 h).2.2.2
    exact .inr (.inr ⟨fun ⟨h, _⟩ => hs h, rfl⟩)
  · cases hi
    have hs : startNow s.ports ≠ true := fun h => h3 ((startNow_iff _).1 h).2.2.1
    exact .inr (.inr ⟨fun ⟨h, _⟩ => hs h, 
      show execWr _ _ s = .next s by unfold execWr; rw [if_neg (fun h => h3 h.1)]⟩)
  · cases hi
    exact .inl ⟨_, rfl, rfl⟩

/-- What a step with `rst` = 0 is: the engine operation on the sampled registers, beside which `h_rdata` shows a host
read and nothing otherwise; or, when a `START` meets the engine at rest, the beginning of a read. -/
theorem step_cases (s : State) (h : s.nextPorts.rst = false) :
    (¬ (startNow s.nextPorts = true ∧ (s.seq = .idle ∨ s.seq = .done)) ∧
      ∃ r, step s = exec (engineOp s.seq) { s.sample with hRdata := r } ∧
        r = if s.nextPorts.hValid = true ∧ s.nextPorts.hWrite = false then some (s.regRead s.nextPorts.hAddr)
            else none) ∨
    (startNow s.nextPorts = true ∧ (s.seq = .idle ∨ s.seq = .done) ∧ step s = .next s.sample.beginRead) := by
  cases hv : hostOp s.nextPorts with
  | none =>
    have hs : ¬ startNow s.nextPorts = true := by unfold startNow; rw [hv]; simp
    refine .inl ⟨fun h => hs h.1, none, step_alone s h hv, (if_neg fun h1 => ?_).symm⟩
    rw [hostOp_eq, h1.1, h1.2] at hv
    simp at hv
  | some i =>
    rcases hostOp_cases s.sample i hv with ⟨a, ha, e⟩ | ⟨h1, h2, e⟩ | ⟨h1, e⟩
    · have hs : ¬ startNow s.nextPorts = true := by unfold startNow; rw [hv, ha]; simp
      refine .inl ⟨fun h => hs h.1, _, step_hosted s _ i h hv e, ?_⟩
      rw [ha, hostOp_eq] at hv
      split_ifs at hv with h1 h2 h3 h4
      · cases hv
      · cases hv
      · cases hv
      · cases hv
        exact (if_pos ⟨h1, by simpa using h2⟩).symm
    · refine .inr ⟨h1, h2, ?_⟩
      have hr : s.sample.beginRead.restStep = s.sample.beginRead := by
        unfold State.restStep
        rw [show startNow s.sample.beginRead.ports = true from h1]
        rfl
      rw [step_hosted s _ i h hv e]
      rcases h2 with h2 | h2 <;> rw [show s.seq = _ from h2] <;>
        (show Host.Outcome.next s.sample.beginRead.restStep = _; rw [hr])
    · refine .inl ⟨h1, none, step_hosted s _ i h hv e, (if_neg fun h2 => ?_).symm⟩
      rw [hostOp_eq, h2.1, h2.2] at hv
      simp at hv
      subst hv
      simp [exec, execRd] at e
      have := congrArg State.hRdata e
      simp [State.sample] at this

/-- What a step does to the model's own fields: one input is consumed, the step number advances, the parameters stay. -/
theorem step_model_fields (s t : State) (h : step s = .next t) :
    t.env = s.env.tail ∧ t.tick = s.tick + 1 ∧ t.params = s.params := by
  cases hr : s.nextPorts.rst
  · rcases step_cases s hr with ⟨_, r, e, _⟩ | ⟨_, _, e⟩ <;> rw [e] at h
    · obtain ⟨a, _, c, d⟩ := exec_keeps_model_fields _ _ _ h
      exact ⟨c, d, a⟩
    · cases h
      exact ⟨rfl, rfl, rfl⟩
  · rw [step_reset s hr] at h
    cases h
    exact ⟨rfl, rfl, rfl⟩

/-! ## Runs -/

/-- The inputs of the next step. -/
theorem portsAt_zero (s : State) : s.portsAt 0 = s.nextPorts := by
  unfold State.portsAt State.nextPorts
  cases s.env <;> rfl

/-- A step moves the inputs on by one. -/
theorem portsAt_step (s t : State) (h : step s = .next t) (k : Nat) : t.portsAt k = s.portsAt (k + 1) := by
  obtain ⟨a, b, _⟩ := step_model_fields s t h
  unfold State.portsAt
  rw [a, b]
  cases s.env with
  | nil => simp only [List.tail_nil, List.getElem?_nil]; congr 1; omega
  | cons p ps =>
    simp only [List.tail_cons, List.getElem?_cons_succ]
    cases ps[k]? with
    | some q => rfl
    | none => show Config.freePorts _ = Config.freePorts _; congr 1; omega

/-- A run is its first step and the run from there. -/
theorem run_succ (n : Nat) (s t : State) (h : step s = .next t) : run (n + 1) s = run n t := by
  simp [run, h]

/-- Runs compose. -/
theorem run_add (m n : Nat) (s t : State) (h : run m s = .next t) : run (m + n) s = run n t := by
  induction m generalizing s with
  | zero =>
    cases h
    rw [Nat.zero_add]
  | succ m ih =>
    cases hs : step s with
    | next u =>
      rw [run_succ _ _ _ hs] at h
      rw [show m + 1 + n = (m + n) + 1 by omega, run_succ _ _ _ hs]
      exact ih u h
    | fault r => simp [run, hs] at h
    | refused r => simp [run, hs] at h

/-- The host's run of any machine is its first step and the run from there. -/
theorem coreRun_succ (M : Host.Core) (n : Nat) (s t : M.State) (h : M.step s = .next t) :
    M.run (n + 1) s = M.run n t := by
  rw [Host.Core.run, h]

/-- `run` is the host's run of the machine, as far as it answers a next state. -/
theorem run_eq_coreRun (n : Nat) (s t : State) (h : run n s = .next t) : Host.Core.run Sys2Proof.core n s = .next t := by
  induction n generalizing s with
  | zero => exact h
  | succ n ih =>
    cases hs : step s with
    | next u =>
      rw [run_succ _ _ _ hs] at h
      exact (coreRun_succ Sys2Proof.core n s u hs).trans (ih u h)
    | fault r => simp [run, hs] at h
    | refused r => simp [run, hs] at h

end Sys2Proof.Machine
end

