-- ==== Sys2Proof/Tests/Slice0.lean ====
section
/-! SUPPORT. The model's own tests: ill-formed terms refused, words of the encoding written out bit by bit, single steps
with the values of spec/95_test_vectors.md or calculated by hand from the rules, and a witness for the hypotheses of
each obligation that has any. -/

namespace Sys2Proof.Tests

open Sys2Proof Sys2Proof.Machine

/-! ## Well-formedness (R6) -/

theorem test_default_params_accepted : Params.default.wellFormed = true := by decide

theorem test_cap_zero_refused : ({ cap := 0, pollBudget := 5 } : Params).wellFormed = false := by decide

theorem test_cap_65_refused : ({ cap := 65, pollBudget := 5 } : Params).wellFormed = false := by decide

theorem test_budget_2_32_refused : ({ cap := 41, pollBudget := 2 ^ 32 } : Params).wellFormed = false := by decide

theorem test_extreme_params_accepted :
    ({ cap := 1, pollBudget := 0 } : Params).wellFormed = true ∧
    ({ cap := 64, pollBudget := 2 ^ 32 - 1 } : Params).wellFormed = true := by decide

/-! ## Words written out (R61, R62, R72) -/

/-- `h_valid` 1, `h_write` 0, `h_addr` 0000 0011, `h_wdata` ignored. -/
theorem test_decode_rd :
    decode (.hostAccess 0b100000001100000000000000000000000000000001) = .ok (.rd 3) := by decide

/-- `h_valid` 1, `h_write` 1, `h_addr` 1000 0001, `h_wdata` 5. -/
theorem test_decode_wr :
    decode (.hostAccess 0b111000000100000000000000000000000000000101) = .ok (.wr 0x81 5) := by decide

/-- `h_valid` 0. -/
theorem test_decode_no_access :
    decode (.hostAccess 0b010000000000000000000000000000000000000001) = .error .noHostAccess := by decide

theorem test_decode_nop : decode (.command 0b11111111111111111111111111111110) = .ok .nop := by decide

theorem test_decode_start : decode (.command 0b10000000000000000000000000000001) = .ok .start := by decide

theorem test_decode_idle : decode (.sequencer 0b0000) = .ok .idle := by decide

theorem test_decode_drvOut : decode (.sequencer 0b0001) = .ok .drvOut := by decide

theorem test_decode_drvLow : decode (.sequencer 0b0010) = .ok .drvLow := by decide

theorem test_decode_hold : decode (.sequencer 0b0011) = .ok .hold := by decide

theorem test_decode_relIn : decode (.sequencer 0b0100) = .ok .relIn := by decide

theorem test_decode_poll : decode (.sequencer 0b0101) = .ok .poll := by decide

theorem test_decode_chkCnt : decode (.sequencer 0b0110) = .ok .chkCnt := by decide

theorem test_decode_skip : decode (.sequencer 0b0111) = .ok .skip := by decide

theorem test_decode_shift : decode (.sequencer 0b1000) = .ok .shift := by decide

theorem test_decode_chkSum : decode (.sequencer 0b1001) = .ok .chkSum := by decide

theorem test_decode_conv : decode (.sequencer 0b1010) = .ok .conv := by decide

theorem test_decode_done : decode (.sequencer 0b1011) = .ok .done := by decide

theorem test_decode_reserved :
    decode (.sequencer 0b1100) = .error .reservedSequencerCode ∧
    decode (.sequencer 0b1111) = .error .reservedSequencerCode := by decide

theorem test_decode_reset :
    decode (.resetPort 1) = .ok .reset ∧ decode (.resetPort 0) = .error .resetNotAsserted := by decide

/-! ## Helpers -/

/-- What `f` says of the state after one operation. -/
def after {α : Type} (i : Instr) (s : State) (f : State → α) : Option α :=
  match exec i s with
  | .next t => some (f t)
  | _ => none

/-- What `f` says of the state after one step. -/
def afterStep {α : Type} (s : State) (f : State → α) : Option α :=
  match step s with
  | .next t => some (f t)
  | _ => none

/-- After reset with `CAP` = 41 and a budget of 5. -/
def base : State := State.afterReset { cap := 41, pollBudget := 5 } .type22

/-- A step's inputs without host access. -/
def line (ts : Word) (level : Bool) : Ports := { Ports.quiet with ts := ts, lineIn := level }

/-- A step's inputs with a write of the command word 1 to `CMD`. -/
def startPorts : Ports := { Ports.quiet with hValid := true, hWrite := true, hWdata := 1 }

/-- A step's inputs with a read. -/
def readPorts (a : BitVec 8) : Ports := { Ports.quiet with hValid := true, hAddr := a }

/-- A buffer with one entry. -/
def oneEntry (i : Nat) (d : Word) : Buffer := (Vector.replicate 64 0).setIfInBounds i d

/-! ## Single steps -/

/-- 95 E2, R42: the frame of V1 as `FRAME0`. -/
theorem test_rd_frame0 :
    after (.rd 0x05) { base with b0 := 0x02, b1 := 0x8C, b2 := 0x01, b3 := 0x77 } State.hRdata
      = some (some 0x028C0177) := by decide

/-- R47, R49: a reserved address reads 0. -/
theorem test_rd_reserved : after (.rd 0xC0) { base with iter := 7 } State.hRdata = some (some 0) := by decide

/-- R49: a write to `TEMP` is ignored. -/
theorem test_wr_temp : after (.wr 0x03 7) { base with temp := 9950 } State.temp = some 9950 := by decide

/-- R84, R61: a write to `CMD` with bits 31:1 set and bit 0 set is `START`. -/
theorem test_wr_cmd : after (.wr 0x00 0xFFFFFFFF) base State.seq = some .drvOut := by decide

/-- R81. -/
theorem test_nop : after .nop { base with seq := .done, temp := 9950 } (fun t => (t.seq, t.temp)) = some (.done, 9950) := by
  decide

/-- R82 (b): the results of the last read are gone, `VARIANT` stays. -/
theorem test_start_at_done :
    after .start { base with seq := .done, temp := 9950, hcnt := 41, err := .invalidChecksum }
      (fun t => (t.seq, t.temp, t.hcnt, t.err, t.variant)) = some (.drvOut, 0, 0, .noError, .type22) := by decide

/-- R82 (a): ignored while busy. -/
theorem test_start_busy : after .start { base with seq := .poll, hcnt := 3 } (fun t => (t.seq, t.hcnt)) = some (.poll, 3) := by
  decide

/-- R88. -/
theorem test_idle_start : after .idle { base with ports := startPorts } State.seq = some .drvOut := by decide

/-- R88. -/
theorem test_done_stays : after .done { base with seq := .done, ports := readPorts 0 } State.seq = some .done := by decide

/-- R90. -/
theorem test_drvOut : after .drvOut { base with seq := .drvOut } (fun t => (t.dir, t.seq)) = some (true, .drvLow) := by decide

/-- R91. -/
theorem test_drvLow :
    after .drvLow { base with seq := .drvLow, ports := line 0xFFFFFFF0 true } (fun t => (t.t0, t.dout, t.seq))
      = some (0xFFFFFFF0, false, .hold) := by decide

/-- R92: one microsecond short, across the wrap of `ts`: 0x26FF - 0xFFFFFFF0 = 9999. -/
theorem test_hold_waits :
    after .hold { base with seq := .hold, t0 := 0xFFFFFFF0, ports := line 0x26FF true } State.seq = some .hold := by decide

/-- R92: 10000 exactly. -/
theorem test_hold_passes :
    after .hold { base with seq := .hold, t0 := 0xFFFFFFF0, ports := line 0x2700 true } State.seq = some .relIn := by decide

/-- R93. -/
theorem test_relIn :
    after .relIn { base with seq := .relIn, dir := true, ports := line 77 true } (fun t => (t.dir, t.anchor, t.prev, t.seq))
      = some (false, 77, false, .poll) := by decide

/-- R93: a budget of 0 runs no iteration. -/
theorem test_relIn_no_budget :
    after .relIn { base with params := { cap := 41, pollBudget := 0 }, seq := .relIn } State.seq = some .chkCnt := by decide

/-- R94, R97, R100: a high phase of 70 microseconds ends, across the wrap of `ts`. -/
theorem test_poll_records_high :
    after .poll { base with seq := .poll, prev := true, anchor := 0xFFFFFFFF, ports := line 69 false }
      (fun t => (t.high[0], t.hcnt, t.anchor, t.prev, t.iter, t.seq)) = some (70, 1, 69, false, 1, .poll) := by decide

/-- R99: the 41st high phase ends the loop. -/
theorem test_poll_leaves_at_41 :
    after .poll { base with seq := .poll, prev := true, hcnt := 40, lcnt := 41, ports := line 69 false }
      (fun t => (t.hcnt, t.high[40], t.seq)) = some (41, 69, .chkCnt) := by decide

/-- 95 V8: 39 recorded high phases are too few. -/
theorem test_chkCnt_39 :
    after .chkCnt { base with seq := .chkCnt, hcnt := 39 } (fun t => (t.err, t.seq)) = some (.invalidNumberOfPulses, .done) := by
  decide

/-- 95 V5: 40 are enough. -/
theorem test_chkCnt_40 : after .chkCnt { base with seq := .chkCnt, hcnt := 40 } (fun t => (t.err, t.seq)) = some (.noError, .skip) := by
  decide

/-- R111. -/
theorem test_skip_41 : after .skip { base with seq := .skip, hcnt := 41 } (fun t => (t.skipn, t.zfirst)) = some (1, false) := by
  decide

/-- R111. -/
theorem test_skip_40 : after .skip { base with seq := .skip, hcnt := 40 } (fun t => (t.skipn, t.zfirst)) = some (0, true) := by
  decide

/-- R112, R68: bit 39 with 30 microseconds goes into `B4` as a 1. -/
theorem test_shift_last :
    after .shift { base with seq := .shift, skipn := 1, bitidx := 39, b4 := 0xC3, high := oneEntry 40 30 }
      (fun t => (t.b4, t.bitidx, t.seq)) = some (0x87, 40, .chkSum) := by decide

/-- R68: 29 microseconds is a 0. -/
theorem test_shift_29 :
    after .shift { base with seq := .shift, skipn := 1, bitidx := 9, b1 := 0x01, high := oneEntry 10 29 }
      (fun t => (t.b1, t.bitidx, t.seq)) = some (0x02, 10, .shift) := by decide

/-- 95 V1. -/
theorem test_chkSum_v1 :
    after .chkSum { base with seq := .chkSum, b0 := 0x02, b1 := 0x8C, b2 := 0x01, b3 := 0x77, b4 := 0x06 }
      (fun t => (t.sum, t.err, t.seq)) = some (0x06, .noError, .conv) := by decide

/-- 95 V2: `SUM` is written on failure too. -/
theorem test_chkSum_v2 :
    after .chkSum { base with seq := .chkSum, b0 := 0x02, b1 := 0x8C, b2 := 0x01, b3 := 0x77, b4 := 0x0C }
      (fun t => (t.sum, t.err, t.seq)) = some (0x06, .invalidChecksum, .done) := by decide

/-- 95 V3: -22.00 degrees Fahrenheit. -/
theorem test_conv_v3 :
    after .conv { base with seq := .conv, b0 := 0x01, b1 := 0xF4, b2 := 0x81, b3 := 0x2C }
      (fun t => (t.temp, t.hum, t.seq)) = some (0xFFFFF768, 500, .done) := by decide

/-- 95 V12: `Type11`, all eight bits of `B2` in the magnitude. -/
theorem test_conv_v12 :
    after .conv { base with variant := .type11, seq := .conv, b0 := 0x37, b2 := 0x81 } (fun t => (t.temp, t.hum))
      = some (0xFFFFB1CC, 550) := by decide

/-- R160, R162. -/
theorem test_reset :
    after .reset { base with seq := .conv, dir := true, temp := 5, ports := { Ports.quiet with variantSel := false } }
      (fun t => (t.seq, t.variant, t.dir, t.temp)) = some (.idle, .type11, false, 0) := by decide

/-! ## Steps on placed words (log 12) -/

/-- The word of `RD 0x02` placed right after reset. -/
theorem test_place_rd : afterStep (State.reset.withFetchWord 48 0x20200000000) State.hRdata = some (some 0) := by decide

/-- The command word 1 placed right after reset. -/
theorem test_place_start : afterStep (State.reset.withFetchWord 32 1) State.seq = some .drvOut := by decide

/-- The sequencer code of `REL_IN` placed right after reset. -/
theorem test_place_relIn : afterStep (State.reset.withFetchWord 8 4) State.seq = some .poll := by decide

/-- The port word of `RESET`. -/
theorem test_place_reset : afterStep ({ base with seq := .hold }.withFetchWord 1 1) State.seq = some .idle := by decide

/-- R48: a read in the step that executes `POLL` sees `ITER` before it. -/
theorem test_step_read_while_polling :
    afterStep { base with seq := .poll, iter := 3, env := [readPorts 0x08] } (fun t => (t.hRdata, t.iter))
      = some (some 3, 4) := by decide

/-! ## Witnesses: states that keep the invariant -/

/-- In the polling loop. -/
def wPoll : State := { base with seq := .poll, env := List.replicate 5 (line 0 false) }

/-- In the hold. -/
def wHold : State := { base with seq := .hold, dir := true }

/-- Before the count check of a read with too few pulses, the budget 0 used up. -/
def wChkCnt : State :=
  { base with params := { cap := 41, pollBudget := 0 }, seq := .chkCnt, env := List.replicate 44 (line 0 false) }

/-- Forty recorded phases of each kind, all of 0 microseconds. -/
def wForty : State := { base with hcnt := 40, lcnt := 40, iter := 5, zfirst := true }

/-- In the bit assembly. -/
def wShift : State := { wForty with seq := .shift }

/-- After the bit assembly. -/
def wChkSum : State := { wForty with seq := .chkSum, bitidx := 40 }

/-- A read that succeeded. -/
def wOk : State := { wForty with seq := .done, bitidx := 40, temp := 3200 }

/-- A read whose checksum byte is 1 for a sum of 0. -/
def wBadSum : State :=
  { wForty with seq := .done, bitidx := 40, high := oneEntry 39 30, b4 := 1, err := .invalidChecksum }

/-- A read with too few pulses. -/
def wFew : State := { base with seq := .done, iter := 5, err := .invalidNumberOfPulses }

theorem witness_inv_base : Inv base := by
  constructor <;> first | exact zeroFrom_cleared _ | decide

theorem witness_inv_poll : Inv wPoll := by
  constructor <;> first | exact zeroFrom_cleared _ | decide

theorem witness_inv_hold : Inv wHold := by
  constructor <;> first | exact zeroFrom_cleared _ | decide

theorem witness_inv_chkCnt : Inv wChkCnt := by
  constructor <;> first | exact zeroFrom_cleared _ | decide

theorem witness_inv_shift : Inv wShift := by
  constructor <;> first | exact zeroFrom_cleared _ | decide

theorem witness_inv_chkSum : Inv wChkSum := by
  constructor <;> first | exact zeroFrom_cleared _ | decide

theorem witness_inv_ok : Inv wOk := by
  constructor <;> first | exact zeroFrom_cleared _ | decide

theorem witness_inv_badSum : Inv wBadSum := by
  constructor <;> first
    | exact zeroFrom_cleared _
    | exact zeroFrom_record (Vector.replicate 64 0) 39 30 (zeroFrom_cleared 39)
    | decide

theorem witness_inv_few : Inv wFew := by
  constructor <;> first | exact zeroFrom_cleared _ | decide

/-! ## Witnesses: the hypotheses of the obligations

Each theorem is named after its obligation and shows values that meet the hypotheses of each of its clauses. -/

/-- A step of the state answers a next state, and `f` holds of it. -/
def stepsTo (s : State) (f : State → Bool) : Bool := (afterStep s f).getD false

/-- An operation answers a next state, and `f` holds of it. -/
def answers (i : Instr) (s : State) (f : State → Bool) : Bool := (after i s f).getD false

/-- A step that answers, as the hypothesis the obligations have. -/
theorem step_of_stepsTo (s : State) (f : State → Bool) (h : stepsTo s f = true) : ∃ t, step s = .next t ∧ f t = true := by
  unfold stepsTo afterStep at h
  cases hs : step s with
  | next t => exact ⟨t, rfl, by simpa [hs] using h⟩
  | fault r => simp [hs] at h
  | refused r => simp [hs] at h

/-- An operation that answers, as the hypothesis the obligations have. -/
theorem exec_of_answers (i : Instr) (s : State) (f : State → Bool) (h : answers i s f = true) :
    ∃ t, exec i s = .next t ∧ f t = true := by
  unfold answers after at h
  cases hs : exec i s with
  | next t => exact ⟨t, rfl, by simpa [hs] using h⟩
  | fault r => simp [hs] at h
  | refused r => simp [hs] at h

theorem witness_CommandWordBitZeroDecides : (2 ^ 31 - 1 : Nat) < 2 ^ 31 ∧ (0 : Nat) < 2 ∧ (1 : Nat) < 2 := by decide

theorem witness_SequencerCodesSelectOperations : 12 ≤ (12 : BitVec 4).toNat ∧ 12 ≤ (15 : BitVec 4).toNat := by decide

theorem witness_DecodeOfEncodeIsTheOperation : (Instr.wr 0xFF 0xFFFFFFFF).wellFormed = true := by decide

/-- A reset step without and with a read; then no access, a write to `0x03`, and a command. -/
theorem witness_StepRunsTheDecodedOperations :
    hostRead { Ports.quiet with rst := true } = none ∧
    hostRead { readPorts 0xFF with rst := true } = some (.rd 0xFF) ∧
    (∃ t, exec (.rd 0xFF) wPoll.sample = .next t ∧ true = true) ∧
    decode (.sequencer wPoll.seq.code) = .ok .poll ∧ wPoll.nextPorts.hValid = false ∧
    decode (.hostAccess (hostAccessWord true true 3 9)) = .ok (.wr 3 9) ∧
    (∃ t, exec (.wr 3 9) wPoll.sample = .next t ∧ true = true) ∧
    decode (.command 1) = .ok .start ∧ (∃ t, exec .start base.sample = .next t ∧ true = true) :=
  ⟨by decide, by decide, exec_of_answers _ _ (fun _ => true) (by decide), by decide, by decide, by decide,
    exec_of_answers _ _ (fun _ => true) (by decide), by decide, exec_of_answers _ _ (fun _ => true) (by decide)⟩

theorem witness_ReadReturnsThePreStepWord :
    (wPoll.withNextPorts (readPorts 0xFF)).nextPorts.hValid = true ∧
    (wPoll.withNextPorts (readPorts 0xFF)).nextPorts.hWrite = false ∧
    ∃ t, step (wPoll.withNextPorts (readPorts 0xFF)) = .next t ∧ true = true :=
  ⟨by decide, by decide, step_of_stepsTo _ (fun _ => true) (by decide)⟩

/-- The five kinds of inert access. -/
theorem witness_InertAccessLeavesNoTrace :
    inertAccess base (line 0 false) ∧ inertAccess base (readPorts 1) ∧
    inertAccess base { startPorts with hAddr := 1 } ∧ inertAccess base { startPorts with hWdata := 0xFFFFFFFE } ∧
    inertAccess wPoll startPorts := by
  unfold inertAccess
  decide

/-- `CAP` = 41: the last entry, the first missing one; the edges of the reserved ranges. -/
theorem witness_RegisterMapWords :
    40 < base.cap ∧ base.cap ≤ 41 ∧ base.cap ≤ 63 ∧ 0x0C ≤ (0x0C : BitVec 8).toNat ∧ (0x3F : BitVec 8).toNat ≤ 0x3F ∧
    0xC0 ≤ (0xC0 : BitVec 8).toNat ∧ (0xFF : BitVec 8) ≠ 0 := by decide

theorem witness_StatusWordFields :
    (Inv base ∧ base.seq = .idle) ∧ (Inv wOk ∧ wOk.seq = .done ∧ wOk.err = .noError) ∧
    (Inv wFew ∧ wFew.seq = .done ∧ wFew.err = .invalidNumberOfPulses) ∧
    (Inv wBadSum ∧ wBadSum.seq = .done ∧ wBadSum.err = .invalidChecksum) ∧ (Inv wHold ∧ wHold.busy = true) :=
  ⟨⟨witness_inv_base, by decide⟩, ⟨witness_inv_ok, by decide⟩, ⟨witness_inv_few, by decide⟩,
    ⟨witness_inv_badSum, by decide⟩, ⟨witness_inv_hold, by decide⟩⟩

/-- The edges of the reserved ranges, the windows' first missing entries among them. -/
theorem witness_RdAnswersTheWord :
    0x40 + base.params.cap ≤ (0x69 : BitVec 8).toNat ∧ (0x7F : BitVec 8).toNat ≤ 0x7F ∧
    0x80 + base.params.cap ≤ (0xA9 : BitVec 8).toNat ∧ 0xC0 ≤ (0xFF : BitVec 8).toNat := by decide

theorem witness_WrAndNopComplete :
    (0xFFFFFFFE : Word).toNat % 2 = 0 ∧ wPoll.busy = true ∧ (0xFFFFFFFF : Word).toNat % 2 = 1 ∧ wOk.busy = false := by
  decide

theorem witness_StartClearsTheReadAtRest :
    base.seq = .idle ∧ wOk.seq = .done ∧ wPoll.seq ≠ .idle ∧ wPoll.seq ≠ .done ∧
    (∃ t, exec .start wOk = .next t ∧ true = true) :=
  ⟨by decide, by decide, by decide, by decide, exec_of_answers _ _ (fun _ => true) (by decide)⟩

/-- A `START`, and each way not to be one. -/
theorem witness_RestAcceptsStartElseNothing :
    (startPorts.hValid = true ∧ startPorts.hWrite = true ∧ startPorts.hAddr = 0 ∧ startPorts.hWdata.toNat % 2 = 1) ∧
    Ports.quiet.hValid = false ∧ (readPorts 0).hWrite = false ∧ ({ startPorts with hAddr := 1 } : Ports).hAddr ≠ 0 ∧
    ({ startPorts with hWdata := 2 } : Ports).hWdata.toNat % 2 = 0 := by decide

theorem witness_DrvOutSetsOutput : Inv base ∧ ∃ t, exec .drvOut base = .next t ∧ true = true :=
  ⟨witness_inv_base, exec_of_answers _ _ (fun _ => true) (by decide)⟩

theorem witness_PollIteration : (0xFFFFFFFE : Word).toNat + 1 < 2 ^ 32 := by decide

/-- The last free entry of each buffer. -/
theorem witness_RecordedDurationReadsBack :
    let s := { base with lcnt := 40, hcnt := 40, ports := line 9 true }
    let u := { base with lcnt := 41, hcnt := 40, prev := true }
    s.params.wellFormed = true ∧ (∃ t, exec .poll s = .next t ∧ true = true) ∧ s.ports.lineIn ≠ s.prev ∧
    s.prev = false ∧ s.lcnt.toNat < s.params.cap ∧
    (∃ t, exec .poll u = .next t ∧ true = true) ∧ u.ports.lineIn ≠ u.prev ∧ u.prev = true ∧
    u.hcnt.toNat < u.params.cap :=
  ⟨by decide, exec_of_answers _ _ (fun _ => true) (by decide), by decide, by decide, by decide,
    exec_of_answers _ _ (fun _ => true) (by decide), by decide, by decide, by decide⟩

/-- Each buffer just full. -/
theorem witness_FullBufferStoresNothing :
    let s := { base with lcnt := 41, hcnt := 40, ports := line 9 true }
    let u := { base with params := { cap := 1, pollBudget := 5 }, lcnt := 1, hcnt := 1, prev := true }
    ((∃ t, exec .poll s = .next t ∧ true = true) ∧ s.ports.lineIn ≠ s.prev ∧ s.prev = false ∧
      s.params.cap ≤ s.lcnt.toNat) ∧
    (∃ t, exec .poll u = .next t ∧ true = true) ∧ u.ports.lineIn ≠ u.prev ∧ u.prev = true ∧
    u.params.cap ≤ u.hcnt.toNat :=
  ⟨⟨exec_of_answers _ _ (fun _ => true) (by decide), by decide, by decide, by decide⟩,
    exec_of_answers _ _ (fun _ => true) (by decide), by decide, by decide, by decide⟩

theorem witness_SkipDropsTheExcess : 40 ≤ wForty.hcnt.toNat := by decide

/-- The forced first bit; and the last bit with the last entry of the buffer. -/
theorem witness_ShiftAssemblesOneBit :
    let u := { base with bitidx := 39, skipn := 1 }
    (wShift.params.wellFormed = true ∧ wShift.bitidx.toNat = 0 ∧ wShift.zfirst = true) ∧
    u.params.wellFormed = true ∧ u.bitidx.toNat < 40 ∧ u.skipn.toNat + u.bitidx.toNat < u.params.cap := by decide

theorem witness_ForcedZeroFirstBit : wShift.bitidx = 0 ∧ wShift.zfirst = true := by decide

/-- The first index without a frame byte, and the first without a buffer entry. -/
theorem witness_ShiftStopsAtWhatDoesNotExist :
    let u := { base with bitidx := 39, skipn := 2 }
    40 ≤ wChkSum.bitidx.toNat ∧ u.bitidx.toNat < 40 ∧ ¬ (u.bitidx.toNat = 0 ∧ u.zfirst = true) ∧
    u.params.cap ≤ u.skipn.toNat + u.bitidx.toNat := by decide

theorem witness_SingleBitCorruptionIsDetected :
    let u := { base with b0 := 254, b1 := 1, b4 := 255 }
    (7 < 8 ∧ ∃ t, exec .chkSum wChkSum = .next t ∧ decide (t.seq = .conv) = true) ∧
    u.b0.toNat < 255 ∧ 0 < u.b1.toNat ∧ ∃ t, exec .chkSum u = .next t ∧ decide (t.seq = .conv) = true :=
  ⟨⟨by decide, exec_of_answers _ _ (fun t => decide (t.seq = .conv)) (by decide)⟩, by decide, by decide,
    exec_of_answers _ _ (fun t => decide (t.seq = .conv)) (by decide)⟩

theorem witness_ResultRanges :
    (∃ t, exec .conv base = .next t ∧ true = true) ∧ base.variant = .type22 ∧
    (∃ t, exec .conv State.reset = .next t ∧ true = true) ∧ State.reset.variant = .type11 :=
  ⟨exec_of_answers _ _ (fun _ => true) (by decide), by decide,
    exec_of_answers _ _ (fun _ => true) (by decide), by decide⟩

theorem witness_ResetStepIsDominant :
    (wPoll.withNextPorts { startPorts with rst := true }).nextPorts.rst = true ∧
    (wPoll.withNextPorts { readPorts 8 with rst := true }).nextPorts.hValid = true ∧
    (wPoll.withNextPorts { readPorts 8 with rst := true }).nextPorts.hWrite = false := by decide

theorem witness_OnlyResetWritesTheVariant : ∃ t, step wPoll = .next t ∧ true = true :=
  step_of_stepsTo _ (fun _ => true) (by decide)

/-- A state in each value of `STATE` whose step answers, both outcomes of the two checks among them, and a reset step. -/
theorem witness_TransitionTable :
    [.idle, .drvOut, .drvLow, .hold, .relIn, .poll, .chkCnt, .skip, .shift, .chkSum, .conv, .done].all (fun q =>
      stepsTo { wForty with seq := q, env := [startPorts] } (fun _ => true)) = true ∧
    stepsTo { wChkCnt with env := [Ports.quiet] } (fun t => decide (t.err = .invalidNumberOfPulses)) = true ∧
    stepsTo { wChkSum with env := [Ports.quiet] } (fun t => decide (t.sum = wChkSum.b4)) = true ∧
    stepsTo { wChkSum with b4 := 1, env := [Ports.quiet] } (fun t => decide (t.sum ≠ 1)) = true ∧
    stepsTo { wPoll with env := [{ Ports.quiet with rst := true }] } (fun _ => true) = true := by decide

theorem witness_InvariantHoldsAfterReset : ({ cap := 64, pollBudget := 0 } : Params).wellFormed = true := by decide

theorem witness_EveryStepKeepsTheInvariant : Inv wPoll ∧ ∃ t, step wPoll = .next t ∧ true = true :=
  ⟨witness_inv_poll, step_of_stepsTo _ (fun _ => true) (by decide)⟩

theorem witness_InvariantStepAnswersNext : Inv wShift := witness_inv_shift

theorem witness_EveryRunKeepsTheRegisterRules : ({ cap := 1, pollBudget := 2 ^ 32 - 1 } : Params).wellFormed = true := by
  decide

/-- The three writers: `START` after an error, the count check, the sum check. -/
theorem witness_ErrWriters :
    stepsTo { wFew with env := [startPorts] } (fun t => decide (t.err ≠ wFew.err)) = true ∧
    stepsTo { wChkCnt with env := [Ports.quiet] } (fun t => decide (t.err ≠ wChkCnt.err)) = true ∧
    stepsTo { wChkSum with b4 := 1, env := [Ports.quiet] } (fun t => decide (t.err ≠ wChkSum.err)) = true := by decide

/-- `DRV_OUT`, `REL_IN`, and `DRV_LOW` in a state with `DOUT` = 1, which no run reaches. -/
theorem witness_LineWriters :
    stepsTo { base with seq := .drvOut, env := [Ports.quiet] } (fun t => decide (t.dir ≠ false)) = true ∧
    stepsTo { wHold with seq := .relIn, env := [Ports.quiet] } (fun t => decide (t.dir ≠ true)) = true ∧
    stepsTo { base with seq := .drvLow, dout := true, env := [Ports.quiet] } (fun t => decide (t.dout ≠ true)) = true := by
  decide

theorem witness_BufferWriters :
    stepsTo { wForty with env := [Ports.quiet] } (fun t => decide (t.seq ≠ .drvOut)) = true ∧
    stepsTo { wPoll with env := [line 9 true] } (fun t => decide (t.seq ≠ .drvOut ∧ t.low[0] = 9)) = true ∧
    stepsTo { wPoll with prev := true, env := [line 9 false] } (fun t => decide (t.seq ≠ .drvOut ∧ t.high[0] = 9)) = true := by
  decide

/-- The step of `CONV`, and a `START` after a success. -/
theorem witness_ResultsArePublishedWithDone :
    stepsTo { wForty with seq := .conv, env := [Ports.quiet] } (fun t => decide (t.temp ≠ 0)) = true ∧
    stepsTo { wOk with env := [startPorts] } (fun t => decide (t.temp ≠ 3200)) = true := by decide

theorem witness_RestKeepsEveryRegister :
    let s := { wOk with env := [readPorts 1, { startPorts with hWdata := 2 }] }
    s.seq = .done ∧ ∀ k, k < 2 → (s.portsAt k).rst = false ∧ startNow (s.portsAt k) = false := by decide

theorem witness_HoldHangsWhileTimeStands :
    let s := { wHold with env := [startPorts, line 9999 true] }
    s.seq = .hold ∧ ∀ k, k < 2 → (s.portsAt k).rst = false ∧ ((s.portsAt k).ts - s.t0).toNat < 10000 := by decide

theorem witness_PollLoopEndsWithinTheBudget :
    Inv wPoll ∧ wPoll.seq = .poll ∧ wPoll.noResetFor (wPoll.params.pollBudget - wPoll.iter.toNat) :=
  ⟨witness_inv_poll, by decide, by unfold State.noResetFor; decide⟩

theorem witness_FrameBytesAreTheClosedForm : Inv wBadSum ∧ wBadSum.bitidx.toNat = 40 :=
  ⟨witness_inv_badSum, by decide⟩

/-- The step after which `BITIDX` is 40. -/
theorem witness_FortiethShiftCompletesTheClosedForm :
    let s := { wShift with bitidx := 39, env := [Ports.quiet] }
    Inv s ∧ s.seq = .shift ∧ ∃ t, step s = .next t ∧ decide (t.seq = .chkSum) = true :=
  ⟨by constructor <;> first | exact zeroFrom_cleared _ | decide, by decide,
    step_of_stepsTo _ (fun t => decide (t.seq = .chkSum)) (by decide)⟩

/-- Captures that decode in one step (no pulses), in 44 (all 0) and in 43 (a checksum byte of 1). -/
theorem witness_DecoderIsAFunctionOfTheTrain :
    let s := { wForty with seq := .chkCnt, zfirst := false, env := List.replicate 44 (line 0 false) }
    let u := { s with high := oneEntry 39 30 }
    (Inv wChkCnt ∧ wChkCnt.seq = .chkCnt ∧ wChkCnt.noResetFor 44 ∧
      (decodeTrain wChkCnt.variant wChkCnt.hcnt.toNat wChkCnt.high).steps = 1) ∧
    (Inv s ∧ s.seq = .chkCnt ∧ s.noResetFor 44 ∧ (decodeTrain s.variant s.hcnt.toNat s.high).steps = 44) ∧
    (Inv u ∧ u.seq = .chkCnt ∧ u.noResetFor 44 ∧ (decodeTrain u.variant u.hcnt.toNat u.high).steps = 43) :=
  ⟨⟨witness_inv_chkCnt, by decide, by unfold State.noResetFor; decide, by decide⟩,
    ⟨by constructor <;> first | exact zeroFrom_cleared _ | decide, by decide, by unfold State.noResetFor; decide,
      by decide⟩,
    ⟨by
      constructor <;> first
        | exact zeroFrom_cleared _
        | exact zeroFrom_record (Vector.replicate 64 0) 39 30 (zeroFrom_cleared 39)
        | decide, by decide, by unfold State.noResetFor; decide, by decide⟩⟩

/-- Two states that differ in what the decoder does not read. -/
theorem witness_DecodeIsDeterministic :
    let u := { wChkCnt with anchor := 5, t0 := 7 }
    Inv wChkCnt ∧ Inv u ∧ u.seq = .chkCnt ∧ u.noResetFor 44 ∧ wChkCnt.high = u.high ∧ wChkCnt.hcnt = u.hcnt ∧
    wChkCnt.variant = u.variant :=
  ⟨witness_inv_chkCnt, by constructor <;> first | exact zeroFrom_cleared _ | decide, by decide,
    by unfold State.noResetFor; decide, by decide, by decide, by decide⟩

/-- The inputs of a read whose hold passes in its second step, and `n` more. -/
def wReadInputs (n : Nat) : List Ports :=
  [startPorts, line 0 true, line 7 true, line 10006 true, line 10007 true] ++ List.replicate n (line 0 true)

/-- Such reads from rest, with a budget of 0 after reset and with a budget of 5 after a success. -/
theorem witness_EveryReadEndsInItsLength :
    let s := { base with params := { cap := 41, pollBudget := 0 }, env := wReadInputs 45 }
    let u := { wOk with env := wReadInputs 50 }
    (Inv s ∧ s.seq = .idle ∧ startNow (s.portsAt 0) = true ∧ s.noResetFor (48 + 2 + s.params.pollBudget) ∧
      (∀ k, k < 2 + 2 → 3 ≤ k → ((s.portsAt k).ts - (s.portsAt 2).ts).toNat < 10000) ∧
      10000 ≤ ((s.portsAt (2 + 2)).ts - (s.portsAt 2).ts).toNat) ∧
    (Inv u ∧ u.params.pollBudget = 5 ∧ u.seq = .done ∧ startNow (u.portsAt 0) = true ∧
      u.noResetFor (48 + 2 + u.params.pollBudget) ∧
      (∀ k, k < 2 + 2 → 3 ≤ k → ((u.portsAt k).ts - (u.portsAt 2).ts).toNat < 10000) ∧
      10000 ≤ ((u.portsAt (2 + 2)).ts - (u.portsAt 2).ts).toNat) :=
  ⟨⟨by constructor <;> first | exact zeroFrom_cleared _ | decide, by decide, by decide,
      by unfold State.noResetFor; decide, by decide, by decide⟩,
    ⟨by constructor <;> first | exact zeroFrom_cleared _ | decide, by decide, by decide, by decide,
      by unfold State.noResetFor; decide, by decide, by decide⟩⟩

theorem witness_FinalStateExplainsItsError :
    (Inv wOk ∧ wOk.seq = .done ∧ wOk.err ≠ .invalidNumberOfPulses) ∧
    (Inv wFew ∧ wFew.seq = .done ∧ wFew.err = .invalidNumberOfPulses) ∧ Inv wBadSum ∧ wBadSum.seq = .done :=
  ⟨⟨witness_inv_ok, by decide⟩, ⟨witness_inv_few, by decide⟩, witness_inv_badSum, by decide⟩

theorem witness_DecoderReadsOnlyWhatWasCaptured : Inv wShift ∧ wShift.seq = .shift :=
  ⟨witness_inv_shift, by decide⟩

theorem witness_StartForgetsTheLastRead :
    let s := { wOk with env := [startPorts] }
    let u := { wFew with env := [startPorts] }
    Inv s ∧ Inv u ∧ s.seq = .done ∧ u.seq = .done ∧ s.variant = u.variant ∧ s.params = u.params ∧
    s.nextPorts = u.nextPorts ∧ s.nextPorts.rst = false ∧ startNow s.nextPorts = true :=
  ⟨by constructor <;> first | exact zeroFrom_cleared _ | decide,
    by constructor <;> first | exact zeroFrom_cleared _ | decide,
    by decide, by decide, by decide, by decide, by decide, by decide, by decide⟩

/-- A read of `CAP` = 1 and a budget of 0, of which the hold passes at once. -/
def wRun : HostRun :=
  { words := [], state := State.afterReset { cap := 1, pollBudget := 0 } .type22
    rest := [⟨0, true⟩, ⟨0, true⟩, ⟨0, true⟩] ++ List.replicate 16 ⟨10000, true⟩ }

/-- A run that ends, as the hypothesis the obligations have. -/
theorem some_of_isSome {α β : Type} (o : Option (α × β)) (h : o.isSome = true) : ∃ x t, o = some (x, t) := by
  obtain ⟨p, hp⟩ := Option.isSome_iff_exists.mp h
  exact ⟨p.1, p.2, hp⟩

/-- R85: the program of `wRun` at rest ends in `invalidNumberOfPulses`; of its 19 samples `START` and six `RD 0x01`
use 7 (R89: `DONE` is the state after the sixth step, which the seventh shows), and no read follows. -/
theorem test_read_error :
    (runRead wRun).map (fun p => (p.1, p.2.state.err, p.2.rest.length))
      = some (.error .invalidNumberOfPulses, .invalidNumberOfPulses, 12) := by decide

/-- A machine in the last step of a successful read. -/
def wLast : HostRun :=
  { words := [], state := { wForty with seq := .conv, bitidx := 40 }, rest := List.replicate 4 ⟨0, true⟩ }

/-- R85: on success `RD 0x03` and `RD 0x04` follow the one `RD 0x01`: `TEMP` = 3200 and `HUM` = 0 (95 V9). -/
theorem test_read_success :
    (runRead wLast).map (fun p => (p.2.words, p.2.rest.length)) = some ([0x00000B06, 3200, 0], 0) := by decide

/-- From rest, `BUSY` = 0; and the success, from a state in which the `START` is ignored. -/
theorem witness_ReadReturnsTheFinalResult :
    (∃ x t, runRead wRun = some (x, t)) ∧ wRun.state.busy = false ∧ (∃ x t, runRead wLast = some (x, t)) :=
  ⟨some_of_isSome _ (by decide), by decide, some_of_isSome _ (by decide)⟩

/-- The three statuses of `DONE`. -/
theorem witness_ReadReadsTheResultOnSuccessOnly :
    ((∃ x t, finishRead 0x0B06 wRun = some (x, t)) ∧ (0x0B06 : Word).toNat / 16 % 4 = 0) ∧
    ((∃ x t, finishRead 0x0B12 wRun = some (x, t)) ∧ (0x0B12 : Word).toNat / 16 % 4 = 1) ∧
    ((∃ x t, finishRead 0x0B22 wRun = some (x, t)) ∧ (0x0B22 : Word).toNat / 16 % 4 = 2) :=
  ⟨⟨some_of_isSome _ (by decide), by decide⟩, ⟨some_of_isSome _ (by decide), by decide⟩,
    some_of_isSome _ (by decide), by decide⟩

theorem witness_ReadLineShowsTheFinalResult : (HostLine.read.run wRun).isSome = true := by decide

theorem witness_DebugReadsKeepTheResult :
    (∃ x u, runReadD wRun = some (x, u)) ∧ (HostLine.readD.run wRun).isSome = true :=
  ⟨some_of_isSome _ (by decide), by decide⟩

end Sys2Proof.Tests
end

section
/-! PROOFS, part 1. What the engine's operation of a step does, said once as a relation, and what a whole step does. -/

namespace Sys2Proof.Machine

/-! ## One iteration of the polling loop -/

/-- The state of a `POLL` whose iteration is counted, before it is decided whether the loop goes on (R94). -/
def State.iterated (s : State) : State := (if s.ports.lineIn ≠ s.prev then s.observe else s).countIteration

/-- The state after one `POLL` (R94). -/
def State.polled (s : State) : State := s.iterated.leaveLoop

theorem exec_poll_eq (s : State) : exec .poll s = .next s.polled := rfl

/-- Recording writes the buffers and their counts, `ANCHOR` and `PREV`, and nothing else (R95). -/
theorem observe_frame (s : State) :
    s.observe = { s with low := s.observe.low, high := s.observe.high, lcnt := s.observe.lcnt, hcnt := s.observe.hcnt,
                         anchor := s.observe.anchor, prev := s.observe.prev } := by
  rcases observe_cases s with ⟨-, -, e⟩ | ⟨-, -, e⟩ | ⟨-, -, e⟩ | ⟨-, -, e⟩ <;> rw [e]

/-- Leaving the loop writes `STATE` and nothing else (R99). -/
theorem leaveLoop_frame (s : State) : s.leaveLoop = { s with seq := s.leaveLoop.seq } := by
  rcases leaveLoop_cases s with ⟨-, e⟩ | ⟨-, -, e⟩ <;> rw [e]

/-- An iteration writes the capture registers and nothing else (R94). -/
theorem iterated_frame (s : State) :
    s.iterated = { s with low := s.iterated.low, high := s.iterated.high, lcnt := s.iterated.lcnt,
                          hcnt := s.iterated.hcnt, anchor := s.iterated.anchor, prev := s.iterated.prev,
                          iter := s.iterated.iter } := by
  unfold State.iterated
  rw [countIteration_frame]
  split
  · rw [observe_frame]
  · rfl

/-- `POLL` writes the capture registers and `STATE`, and nothing else (R94). -/
theorem polled_frame (s : State) :
    s.polled = { s with low := s.polled.low, high := s.polled.high, lcnt := s.polled.lcnt, hcnt := s.polled.hcnt,
                        anchor := s.polled.anchor, prev := s.polled.prev, iter := s.polled.iter,
                        seq := s.polled.seq } := by
  unfold State.polled
  rw [leaveLoop_frame, iterated_frame]

/-! ## The engine's operation -/

/-- What the engine does in a step that begins with `STATE` = `q`: one constructor per outcome of an operation. -/
inductive EngineStep (s : State) : Sequencer → State → Prop
  | rest {q : Sequencer} (hq : q = .idle ∨ q = .done) (h : startNow s.ports = false) : EngineStep s q s
  | start {q : Sequencer} (hq : q = .idle ∨ q = .done) (h : startNow s.ports = true) : EngineStep s q s.beginRead
  | drvOut : EngineStep s .drvOut { s with dir := true, seq := .drvLow }
  | drvLow : EngineStep s .drvLow { s with dout := false, t0 := s.ports.ts, seq := .hold }
  | holdOn (h : (elapsedUs s.ports.ts s.t0).toNat < 10000) : EngineStep s .hold s
  | holdEnd (h : 10000 ≤ (elapsedUs s.ports.ts s.t0).toNat) : EngineStep s .hold (s.goto .relIn)
  | relIn : EngineStep s .relIn
      { s with dir := false, prev := false, anchor := s.ports.ts, seq := if s.pollBudget = 0 then .chkCnt else .poll }
  | poll : EngineStep s .poll s.polled
  | countFailed (h : s.hcnt.toNat < 40) : EngineStep s .chkCnt (s.raise .invalidNumberOfPulses)
  | countPassed (h : 40 ≤ s.hcnt.toNat) : EngineStep s .chkCnt (s.goto .skip)
  | skip : EngineStep s .skip
      { s with skipn := narrow s.tick 8 ((s.hcnt.toNat : Int) - 40), zfirst := decide (s.hcnt.toNat = 40)
               seq := .shift }
  | shift (h : s.bitidx.toNat < 40) (d : Word) (hd : s.selectedDuration s.bitidx.toNat = some d) :
      EngineStep s .shift (s.assembleBit ⟨s.bitidx.toNat / 8, by omega⟩ (durationBit d))
  | sumFailed (h : checksum s.b0 s.b1 s.b2 s.b3 ≠ s.b4) :
      EngineStep s .chkSum { s with sum := checksum s.b0 s.b1 s.b2 s.b3, err := .invalidChecksum, seq := .done }
  | sumPassed (h : checksum s.b0 s.b1 s.b2 s.b3 = s.b4) :
      EngineStep s .chkSum { s with sum := checksum s.b0 s.b1 s.b2 s.b3, seq := .conv }
  | conv : EngineStep s .conv
      { s with temp := BitVec.ofInt 32 (fahrenheitHundredths (celsiusTenths s.variant s.b2 s.b3)),
               hum := BitVec.ofNat 32 (humidityTenths s.variant s.b0 s.b1), seq := .done }

/-- At rest the engine begins a read on a `START` and else does nothing (R88). -/
theorem engineStep_restStep (s : State) (q : Sequencer) (hq : q = .idle ∨ q = .done) : EngineStep s q s.restStep := by
  rcases restStep_cases s with ⟨h, e⟩ | ⟨h, e⟩ <;> rw [e]
  · exact .start hq h
  · exact .rest hq h

/-- The relation says all that the engine's operation can answer as a next state. -/
theorem engineStep_of_exec (q : Sequencer) (s t : State) (h : exec (engineOp q) s = .next t) : EngineStep s q t := by
  cases q with
  | idle => cases h; exact engineStep_restStep s _ (.inl rfl)
  | done => cases h; exact engineStep_restStep s _ (.inr rfl)
  | drvOut => cases h; exact .drvOut
  | drvLow => cases h; exact .drvLow
  | hold =>
    cases h
    split
    · exact .holdEnd ‹_›
    · exact .holdOn (Nat.lt_of_not_le ‹_›)
  | relIn => cases h; exact .relIn
  | poll => cases (exec_poll_eq s).symm.trans h; exact .poll
  | chkCnt =>
    cases h
    split
    · exact .countFailed ‹_›
    · exact .countPassed (Nat.le_of_not_lt ‹_›)
  | skip => cases h; exact .skip
  | shift =>
    rcases execShift_cases s with ⟨hb, d, hd, e⟩ | ⟨-, -, e⟩ | ⟨-, e⟩
    · cases e.symm.trans h
      exact .shift hb d hd
    · cases e.symm.trans h
    · cases e.symm.trans h
  | chkSum =>
    cases h
    split
    · exact .sumFailed ‹_›
    · exact .sumPassed (not_not.mp ‹_›)
  | conv => cases h; exact .conv

/-- Every outcome that the relation names is what the engine's operation answers. -/
theorem exec_of_engineStep (q : Sequencer) (s t : State) (h : EngineStep s q t) : exec (engineOp q) s = .next t := by
  have rest_eq (hq : q = .idle ∨ q = .done) : exec (engineOp q) s = .next s.restStep := by
    rcases hq with rfl | rfl <;> rfl
  cases h with
  | rest hq h => simp [rest_eq hq, State.restStep, h]
  | start hq h => simp [rest_eq hq, State.restStep, h]
  | holdOn h => exact congrArg _ (if_neg (Nat.not_le_of_lt h))
  | holdEnd h => exact congrArg _ (if_pos h)
  | countFailed h => exact congrArg _ (if_pos h)
  | countPassed h => exact congrArg _ (if_neg (Nat.not_lt_of_le h))
  | shift hb d hd =>
    rcases execShift_cases s with ⟨_, d', hd', e⟩ | ⟨-, hd', -⟩ | ⟨hb', -⟩
    · cases hd.symm.trans hd'
      exact e
    · cases hd.symm.trans hd'
    · omega
  | sumFailed h => exact congrArg _ (if_pos h)
  | sumPassed h => exact congrArg _ (if_neg (not_not.mpr h))
  | drvOut | drvLow | relIn | poll | skip | conv => rfl

/-! ## The whole step -/

/-- What a step that answers a next state is: a reset, the beginning of a read at rest, or the engine's operation on
the sampled registers. -/
theorem step_next_cases (s t : State) (h : step s = .next t) :
    (s.nextPorts.rst = true ∧ ∃ r, t = { s.sample.resetRegisters with hRdata := r }) ∨
    (s.nextPorts.rst = false ∧ (s.seq = .idle ∨ s.seq = .done) ∧ t = s.sample.beginRead) ∨
    (s.nextPorts.rst = false ∧ ∃ r, EngineStep { s.sample with hRdata := r } s.seq t) := by
  cases hr : s.nextPorts.rst
  · rcases step_cases s hr with ⟨-, r, e, -⟩ | ⟨-, hq, e⟩
    · exact .inr (.inr ⟨rfl, r, engineStep_of_exec _ _ _ (e.symm.trans h)⟩)
    · cases e.symm.trans h
      exact .inr (.inl ⟨rfl, hq, rfl⟩)
  · cases (step_reset s hr).symm.trans h
    exact .inl ⟨rfl, _, rfl⟩

/-- A step without reset either begins a read at rest or is the engine's operation on the sampled registers. -/
theorem step_next_cases_of_no_reset (s t : State) (hr : s.nextPorts.rst = false) (h : step s = .next t) :
    ((s.seq = .idle ∨ s.seq = .done) ∧ t = s.sample.beginRead) ∨
    ∃ r, EngineStep { s.sample with hRdata := r } s.seq t := by
  rcases step_next_cases s t h with ⟨hr', -⟩ | ⟨-, h⟩ | ⟨-, h⟩
  · simp [hr] at hr'
  · exact .inl h
  · exact .inr h

end Sys2Proof.Machine
end

section
/-! PROOFS, part 2. Which operations write the line, the buffers and `ERR` (R12, R14, R15, R21, R53, R143, R148). -/

namespace Sys2Proof.Machine

/-! ## The line -/

/-- The engine changes the direction in `DRV_OUT` and `REL_IN` only, and the level in `DRV_LOW` only (R14, R15). -/
theorem engineStep_line (s t : State) (q : Sequencer) (h : EngineStep s q t) :
    (t.dir ≠ s.dir → (q = .drvOut ∧ t.dir = true) ∨ (q = .relIn ∧ t.dir = false)) ∧
    (t.dout ≠ s.dout → q = .drvLow ∧ t.dout = false) := by
  have unwritten {u : State} (hdir : u.dir = s.dir) (hdout : u.dout = s.dout) :
      (u.dir ≠ s.dir → (q = .drvOut ∧ u.dir = true) ∨ (q = .relIn ∧ u.dir = false)) ∧
      (u.dout ≠ s.dout → q = .drvLow ∧ u.dout = false) :=
    ⟨fun h => absurd hdir h, fun h => absurd hdout h⟩
  cases h with
  | drvOut => exact ⟨fun _ => .inl ⟨rfl, rfl⟩, fun h => absurd rfl h⟩
  | relIn => exact ⟨fun _ => .inr ⟨rfl, rfl⟩, fun h => absurd rfl h⟩
  | drvLow => exact ⟨fun h => absurd rfl h, fun _ => ⟨rfl, rfl⟩⟩
  | poll => rw [polled_frame]; exact unwritten rfl rfl
  | shift => rw [assembleBit_eq, setFrameByte_frame]; exact unwritten rfl rfl
  | _ => exact unwritten rfl rfl

/-! ## The buffers -/

/-- An observed transition writes at most the next entry of one buffer (R96 to R98). -/
theorem observe_buffers (s : State) :
    (s.observe.high = s.high ∧ ∀ i : Nat, i ≠ s.lcnt.toNat → s.observe.low[i]? = s.low[i]?) ∨
    (s.observe.low = s.low ∧ ∀ i : Nat, i ≠ s.hcnt.toNat → s.observe.high[i]? = s.high[i]?) := by
  rcases observe_cases s with ⟨-, -, e⟩ | ⟨-, -, e⟩ | ⟨-, -, e⟩ | ⟨-, -, e⟩ <;> rw [e]
  · exact .inl ⟨rfl, fun i hi => buffer_read_other _ _ _ _ hi.symm⟩
  · exact .inl ⟨rfl, fun _ _ => rfl⟩
  · exact .inr ⟨rfl, fun i hi => buffer_read_other _ _ _ _ hi.symm⟩
  · exact .inl ⟨rfl, fun _ _ => rfl⟩

/-- `POLL` writes at most the next entry of one buffer (R94). -/
theorem polled_buffers (s : State) :
    (s.polled.high = s.high ∧ ∀ i : Nat, i ≠ s.lcnt.toNat → s.polled.low[i]? = s.low[i]?) ∨
    (s.polled.low = s.low ∧ ∀ i : Nat, i ≠ s.hcnt.toNat → s.polled.high[i]? = s.high[i]?) := by
  unfold State.polled State.iterated
  rw [leaveLoop_frame, countIteration_frame]
  split
  · exact observe_buffers s
  · exact .inl ⟨rfl, fun _ _ => rfl⟩

/-- The engine's operations but `POLL` keep both buffers, unless they begin a read. -/
theorem engineStep_buffers (s t : State) (q : Sequencer) (h : EngineStep s q t) (ht : t.seq ≠ .drvOut)
    (hq : q ≠ .poll) : t.low = s.low ∧ t.high = s.high := by
  cases h with
  | start => exact absurd rfl ht
  | poll => exact absurd rfl hq
  | shift => rw [assembleBit_eq, setFrameByte_frame]; exact ⟨rfl, rfl⟩
  | _ => exact ⟨rfl, rfl⟩

/-! ## `ERR` -/

/-- The writers of `ERR` and their values: the beginning of a read, and the two checks (R12). -/
theorem engineStep_err (s t : State) (q : Sequencer) (h : EngineStep s q t) (ht : t.err ≠ s.err) :
    (t.err = .noError ∧ t.seq = .drvOut ∧ (q = .idle ∨ q = .done)) ∨
    (t.err = .invalidNumberOfPulses ∧ q = .chkCnt ∧ t.seq = .done) ∨
    (t.err = .invalidChecksum ∧ q = .chkSum ∧ t.seq = .done) := by
  cases h with
  | start hq => exact .inl ⟨rfl, rfl, hq⟩
  | countFailed => exact .inr (.inl ⟨rfl, rfl, rfl⟩)
  | sumFailed => exact .inr (.inr ⟨rfl, rfl, rfl⟩)
  | poll => rw [polled_frame] at ht; exact absurd rfl ht
  | shift => rw [assembleBit_eq, setFrameByte_frame] at ht; exact absurd rfl ht
  | _ => exact absurd rfl ht

/-- Bits 5:4 of `STATUS` are the code of `ERR` (R44). -/
theorem status_errBits (s : State) : (s.regRead 0x01).toNat / 16 % 4 = s.err.code.toNat := by
  have hs : (s.regRead 0x01).toNat = _ := statusWord_toNat s
  have hb := s.busy.toNat_le
  have hd := s.doneF.toNat_le
  have ho := s.okF.toNat_le
  have he : s.err.code.toNat < 3 := by cases s.err <;> decide
  omega

/-- No word but `STATUS` shows `ERR` (R148). -/
theorem regRead_setErr (s : State) (e : ErrCode) (a : BitVec 8) (ha : a ≠ 0x01) :
    { s with err := e }.regRead a = s.regRead a := by
  rcases Nat.lt_or_ge a.toNat 0x0C with h | h
  · have hm := addr_below_0C a h
    simp only [List.mem_cons, List.not_mem_nil, or_false] at hm
    rcases hm with rfl | rfl | rfl | rfl | rfl | rfl | rfl | rfl | rfl | rfl | rfl | rfl
    case inr.inl => exact absurd rfl ha
    all_goals rfl
  · rw [regRead_from_0C _ _ h, regRead_from_0C _ _ h]
    rfl

/-- Another `ERR` and another `h_rdata`: what `ErrWriters` varies. -/
def State.withErr (s : State) (e : ErrCode) (r : Option Word) : State := { s with err := e, hRdata := r }

theorem recordLow_withErr (s : State) (e : ErrCode) (r : Option Word) (d : Word) :
    (s.withErr e r).recordLow d = (s.recordLow d).withErr e r := by
  unfold State.recordLow
  rw [apply_ite (State.withErr · e r)]
  rfl

theorem recordHigh_withErr (s : State) (e : ErrCode) (r : Option Word) (d : Word) :
    (s.withErr e r).recordHigh d = (s.recordHigh d).withErr e r := by
  unfold State.recordHigh
  rw [apply_ite (State.withErr · e r)]
  rfl

theorem observe_withErr (s : State) (e : ErrCode) (r : Option Word) :
    (s.withErr e r).observe = s.observe.withErr e r := by
  simp only [State.observe, recordHigh_withErr, recordLow_withErr]
  rw [show (s.withErr e r).prev = s.prev from rfl]
  split <;> rfl

theorem leaveLoop_withErr (s : State) (e : ErrCode) (r : Option Word) :
    (s.withErr e r).leaveLoop = s.leaveLoop.withErr e r := by
  unfold State.leaveLoop
  rw [apply_ite (State.withErr · e r)]
  rfl

theorem polled_withErr (s : State) (e : ErrCode) (r : Option Word) :
    (s.withErr e r).polled = s.polled.withErr e r := by
  unfold State.polled State.iterated
  rw [← leaveLoop_withErr, observe_withErr, show (s.withErr e r).ports = s.ports from rfl,
    show (s.withErr e r).prev = s.prev from rfl, ← apply_ite (State.withErr · e r)]
  rfl

theorem setFrameByte_withErr (s : State) (e : ErrCode) (r : Option Word) (k : Fin 5) (b : Byte) :
    (s.withErr e r).setFrameByte k b = (s.setFrameByte k b).withErr e r := by
  fin_cases k <;> rfl

theorem assembleBit_withErr (s : State) (e : ErrCode) (r : Option Word) (k : Fin 5) (x : Bool) :
    (s.withErr e r).assembleBit k x = (s.assembleBit k x).withErr e r := by
  rw [assembleBit_eq, assembleBit_eq, setFrameByte_withErr]
  rfl

/-- No operation of the engine acts on `ERR` or `h_rdata`: with others it answers the same registers (R148). -/
theorem engineStep_withErr (s t : State) (q : Sequencer) (h : EngineStep s q t) (e : ErrCode) (r : Option Word) :
    ∃ e', EngineStep (s.withErr e r) q (t.withErr e' r) := by
  cases h with
  | rest hq h => exact ⟨e, .rest hq h⟩
  | start hq h => exact ⟨.noError, .start hq h⟩
  | drvOut => exact ⟨e, .drvOut⟩
  | drvLow => exact ⟨e, .drvLow⟩
  | holdOn h => exact ⟨e, .holdOn h⟩
  | holdEnd h => exact ⟨e, .holdEnd h⟩
  | relIn => exact ⟨e, .relIn⟩
  | poll => exact ⟨e, polled_withErr s e r ▸ .poll⟩
  | countFailed h => exact ⟨_, .countFailed h⟩
  | countPassed h => exact ⟨e, .countPassed h⟩
  | skip => exact ⟨e, .skip⟩
  | shift h d hd => exact ⟨e, assembleBit_withErr s e r _ _ ▸ .shift (s := s.withErr e r) h d hd⟩
  | sumFailed h => exact ⟨_, .sumFailed h⟩
  | sumPassed h => exact ⟨e, .sumPassed h⟩
  | conv => exact ⟨e, .conv⟩

/-- No operation of the engine drives `h_rdata` (R48). -/
theorem engineStep_hRdata (s t : State) (q : Sequencer) (h : EngineStep s q t) : t.hRdata = s.hRdata := by
  cases h with
  | poll => rw [polled_frame]
  | shift => rw [assembleBit_eq, setFrameByte_frame]
  | _ => rfl

/-- A step with another `ERR` before it answers the same registers but `ERR`, and the same `h_rdata` unless the address
is that of `STATUS` (R148). -/
theorem step_setErr (s t : State) (e : ErrCode) (h : step s = .next t) :
    ∃ (e' : ErrCode) (r : Option Word), step { s with err := e } = .next (t.withErr e' r) ∧
      (s.nextPorts.hAddr ≠ 0x01 → r = t.hRdata) := by
  have same_read (ha : s.nextPorts.hAddr ≠ 0x01) :
      { s with err := e }.regRead s.nextPorts.hAddr = s.regRead s.nextPorts.hAddr := regRead_setErr s e _ ha
  cases hr : s.nextPorts.rst
  · rcases step_cases s hr with ⟨hn, r, hs, hread⟩ | ⟨hs, hq, hbegin⟩ <;>
      rcases step_cases { s with err := e } hr with ⟨hn', r', hs', hread'⟩ | ⟨hs', hq', hbegin'⟩
    · have hstep := engineStep_of_exec _ _ _ (hs.symm.trans h)
      obtain ⟨e', hother⟩ := engineStep_withErr _ _ _ hstep e r'
      refine ⟨e', r', hs'.trans (exec_of_engineStep _ _ _ hother), fun ha => ?_⟩
      rw [engineStep_hRdata _ _ _ hstep, hread', hread, ← same_read ha]
      rfl
    · exact absurd ⟨hs', hq'⟩ hn
    · exact absurd ⟨hs, hq⟩ hn'
    · cases hbegin.symm.trans h
      exact ⟨.noError, none, hbegin', fun _ => rfl⟩
  · cases (step_reset s hr).symm.trans h
    refine ⟨.noError, _, step_reset { s with err := e } hr, fun ha => ?_⟩
    rw [← same_read ha]
    rfl

/-! ## The obligations -/

/-- Settles O43: a beginning read writes neither register, the engine's operations as `engineStep_line` says. -/
theorem lineWriters : Obligations.LineWriters := by
  intro s t hr h
  rcases step_next_cases_of_no_reset s t hr h with ⟨-, rfl⟩ | ⟨r, h⟩
  · exact ⟨fun h => absurd rfl h, fun h => absurd rfl h⟩
  · exact engineStep_line { s.sample with hRdata := r } _ _ h

/-- Settles O44: without a beginning read the step is the engine's operation, and of these `POLL` alone records. -/
theorem bufferWriters : Obligations.BufferWriters := by
  intro s t hr h ht
  rcases step_next_cases_of_no_reset s t hr h with ⟨-, rfl⟩ | ⟨r, h⟩
  · exact absurd rfl ht
  · refine ⟨engineStep_buffers { s.sample with hRdata := r } _ _ h ht, fun hq => ?_⟩
    rw [hq] at h
    cases h with
    | rest hq | start hq => simp at hq
    | poll => exact polled_buffers { s.sample with hRdata := r }

/-- Settles O42: the writers of `ERR` are those of `engineStep_err`, and a step with another `ERR` before it is that of
`step_setErr`. -/
theorem errWriters : Obligations.ErrWriters := by
  refine ⟨fun s t hr h ht => ?_, fun s e => ⟨rfl, rfl, rfl, rfl, regRead_setErr s e, fun t h => ?_⟩⟩
  · have writer : (t.err = .noError ∧ t.seq = .drvOut ∧ (s.seq = .idle ∨ s.seq = .done)) ∨
        (t.err = .invalidNumberOfPulses ∧ s.seq = .chkCnt ∧ t.seq = .done) ∨
        (t.err = .invalidChecksum ∧ s.seq = .chkSum ∧ t.seq = .done) := by
      rcases step_next_cases_of_no_reset s t hr h with ⟨hq, rfl⟩ | ⟨r, h⟩
      · exact .inl ⟨rfl, rfl, hq⟩
      · exact engineStep_err _ _ _ h ht
    rw [status_errBits]
    rcases writer with ⟨he, w⟩ | ⟨he, w⟩ | ⟨he, w⟩ <;> rw [he]
    · exact .inl ⟨rfl, rfl, w⟩
    · exact .inr (.inl ⟨rfl, rfl, w⟩)
    · exact .inr (.inr ⟨rfl, rfl, w⟩)
  · obtain ⟨e', r, hstep, hread⟩ := step_setErr s t e h
    exact ⟨_, hstep, rfl, hread⟩

end Sys2Proof.Machine
end

section
/-! PROOFS, part 3. The status flags and ports, reset, and the two stops of `SHIFT` (R27, R31, R160, log 7). -/

namespace Sys2Proof.Machine

/-- A bit of a word from the word's number. -/
theorem getLsbD_of_div_mod (w : Word) (i : Nat) (b : Bool) (h : w.toNat / 2 ^ i % 2 = b.toNat) : w.getLsbD i = b := by
  rw [BitVec.getLsbD, Nat.testBit_eq_decide_div_mod_eq, h]
  cases b <;> rfl

/-- Bits 0, 1 and 2 of `STATUS` are the three flags (R44). -/
theorem statusWord_flags (s : State) :
    s.statusWord.getLsbD 0 = s.busy ∧ s.statusWord.getLsbD 1 = s.doneF ∧ s.statusWord.getLsbD 2 = s.okF := by
  have hw := statusWord_toNat s
  have hb := s.busy.toNat_le
  have hd := s.doneF.toNat_le
  have ho := s.okF.toNat_le
  refine ⟨getLsbD_of_div_mod _ _ _ ?_, getLsbD_of_div_mod _ _ _ ?_, getLsbD_of_div_mod _ _ _ ?_⟩ <;> omega

/-- Settles O12: the flags are decisions on `STATE` and `ERR`, and `statusWord_flags` places them. -/
theorem statusFlagsAndPorts : Obligations.StatusFlagsAndPorts := by
  intro s
  obtain ⟨busy_bit, done_bit, ok_bit⟩ := statusWord_flags s
  exact ⟨decide_eq_true_iff, decide_eq_true_iff, decide_eq_true_iff, busy_bit, done_bit, ok_bit,
    fun _ _ => ⟨rfl, rfl, rfl⟩, rfl, rfl, rfl, rfl⟩

/-- Settles O29: of the outcomes of `execShift_cases` the premises leave the two stops. -/
theorem shiftStopsAtWhatDoesNotExist : Obligations.ShiftStopsAtWhatDoesNotExist := by
  intro s
  have no_entry (hz : ¬ (s.bitidx.toNat = 0 ∧ s.zfirst = true))
      (hcap : s.params.cap ≤ s.skipn.toNat + s.bitidx.toNat) : s.selectedDuration s.bitidx.toNat = none := by
    rcases selectedDuration_cases s s.bitidx.toNat with ⟨h0, hz', -⟩ | ⟨-, hlt, -⟩ | ⟨-, -, e⟩
    · exact absurd ⟨h0, hz'⟩ hz
    · exact absurd hlt (Nat.not_lt_of_le hcap)
    · exact e
  rcases execShift_cases s with ⟨hb, d, hd, -⟩ | ⟨hb, -, e⟩ | ⟨hb, e⟩
  · exact ⟨fun h => absurd hb (Nat.not_lt_of_le h), fun _ hz hcap => by simp [no_entry hz hcap] at hd⟩
  · exact ⟨fun h => absurd hb (Nat.not_lt_of_le h), fun _ _ _ => e⟩
  · exact ⟨fun _ => e, fun h => absurd h (Nat.not_lt_of_le hb)⟩

/-- Settles O34: the registers after `RESET` are those of `State.resetRegisters`. -/
theorem resetClearsEveryRegister : Obligations.ResetClearsEveryRegister := by
  intro s
  have buffers_zero (i : Nat) (h : i < 64) :
      s.resetRegisters.low[i] = 0 ∧ s.resetRegisters.high[i] = 0 := by simp
  have frame_zero (k : Fin 5) : s.resetRegisters.frameByte k = 0 := by fin_cases k <;> rfl
  exact ⟨s.resetRegisters, rfl, rfl, rfl, rfl, rfl, rfl, rfl, rfl, rfl, rfl, rfl, rfl, buffers_zero, rfl, rfl, rfl,
    frame_zero, rfl, rfl, rfl, rfl⟩

end Sys2Proof.Machine
end

section
/-! PROOFS, part 4. The invariant in three parts (capture, phases, decoder), how each is built, and that every step
keeps it. -/

namespace Sys2Proof.Machine

/-! ## The three parts -/

/-- The part of `Inv` that does not speak of `STATE`: parameters, counts, `ITER` and buffers. -/
structure CaptureInv (s : State) : Prop where
  params_wf : s.params.wellFormed = true
  hcnt_le : s.hcnt.toNat ≤ min s.cap 41
  alternation : s.lcnt.toNat = min (s.hcnt.toNat + s.prev.toNat) s.cap
  iter_le : s.iter.toNat ≤ s.pollBudget
  low_tail : Buffer.zeroFrom s.low s.lcnt.toNat
  high_tail : Buffer.zeroFrom s.high s.hcnt.toNat

/-- The part of `Inv` that says what each phase of a read knows of the line, the counts and `ERR`. -/
structure PhaseInv (s : State) : Prop where
  line_low : s.dout = false
  dir_phase : s.dir = driving s.seq
  polling : s.seq = .poll → s.hcnt.toNat < 41 ∧ s.iter.toNat < s.pollBudget
  fresh : beforeLoop s.seq = true → s.lcnt = 0 ∧ s.hcnt = 0 ∧ s.iter = 0 ∧ s.prev = false
  idle_zero : s.seq = .idle → s.t0 = 0 ∧ s.anchor = 0
  loop_end : afterLoop s.seq = true → s.hcnt.toNat = 41 ∨ s.iter.toNat = s.pollBudget
  count_passed : s.passedCount = true → 40 ≤ s.hcnt.toNat
  count_failed : s.seq = .done → s.err = .invalidNumberOfPulses → s.hcnt.toNat < 40
  err_busy : s.seq ≠ .done → s.err = .noError

/-- Bit `p` of byte `k` as `Inv` has it (R112, R114). -/
def State.assembledBit (s : State) (k p : Nat) : Bool :=
  decide (p < bitsInByte s.bitidx.toNat k) &&
    durationBit ((s.selectedDuration (8 * k + bitsInByte s.bitidx.toNat k - 1 - p)).getD 0)

/-- The part of `Inv` that speaks of the decoder's registers and the results. -/
structure DecoderInv (s : State) : Prop where
  skip_fields : if s.passedSkip = true then s.skipn.toNat = s.hcnt.toNat - 40 ∧ s.zfirst = decide (s.hcnt.toNat = 40)
    else s.skipn = 0 ∧ s.zfirst = false
  bit_index : if s.seq = .shift then s.bitidx.toNat < 40
    else if s.passedShift = true then s.bitidx.toNat = 40 else s.bitidx = 0
  frame_bits : ∀ (k : Fin 5) (p : Nat), p < 8 → (s.frameByte k).getLsbD p = s.assembledBit k p
  sum_value : s.sum = if s.passedSum = true then checksum s.b0 s.b1 s.b2 s.b3 else 0
  sum_passed : s.passedSum = true → (s.err = .noError ↔ s.sum = s.b4)
  results : if s.seq = .done ∧ s.err = .noError then
      s.temp.toInt = fahrenheitHundredths (celsiusTenths s.variant s.b2 s.b3) ∧
      s.hum.toNat = humidityTenths s.variant s.b0 s.b1
    else s.temp = 0 ∧ s.hum = 0

theorem inv_iff (s : State) : Inv s ↔ CaptureInv s ∧ PhaseInv s ∧ DecoderInv s :=
  ⟨fun h => ⟨{ h with }, { h with }, { h with }⟩, fun ⟨c, p, d⟩ => { c, p, d with }⟩

/-- The invariant speaks of registers and parameters only. -/
theorem Inv.of_sameRegisters {s t : State} (h : Inv s) (e : sameRegisters s t) : Inv t := by
  rw [e]
  exact { h with }

/-! ## Before the decoder has selected anything -/

/-- The decoder's registers and the results as `START` and reset leave them, in a phase before the end of `SKIP`. -/
structure Undecoded (s : State) : Prop where
  before_skip : s.passedSkip = false
  skipn_zero : s.skipn = 0
  zfirst_false : s.zfirst = false
  bitidx_zero : s.bitidx = 0
  frame_zero : ∀ k, s.frameByte k = 0
  sum_zero : s.sum = 0
  temp_zero : s.temp = 0
  hum_zero : s.hum = 0

/-- Where no bit is assembled every frame byte is 0 (R112). -/
theorem frame_bits_iff_of_bitidx_zero (s : State) (h : s.bitidx = 0) :
    (∀ (k : Fin 5) (p : Nat), p < 8 → (s.frameByte k).getLsbD p = s.assembledBit k p) ↔
      ∀ k, s.frameByte k = 0 := by
  have no_bit (k p : Nat) : s.assembledBit k p = false := by simp [State.assembledBit, bitsInByte, h]
  constructor
  · intro hb k
    refine BitVec.eq_of_getLsbD_eq fun p hp => ?_
    simp [hb k p hp, no_bit]
  · intro hz k p _
    simp [hz k, no_bit]

theorem ne_shift_of_passedSkip {s : State} (h : s.passedSkip = false) : s.seq ≠ .shift := by
  intro hs
  simp [State.passedSkip, State.passedCount, hs] at h

theorem not_ok_of_passedSkip {s : State} (h : s.passedSkip = false) : ¬ (s.seq = .done ∧ s.err = .noError) := by
  rintro ⟨hs, he⟩
  simp [State.passedSkip, State.passedCount, hs, he] at h

theorem passedCount_of_beforeLoop {s : State} (h : beforeLoop s.seq = true) : s.passedCount = false := by
  cases hs : s.seq <;> simp [hs, beforeLoop, State.passedCount] at h ⊢

theorem passedSkip_of_beforeLoop {s : State} (h : beforeLoop s.seq = true) : s.passedSkip = false := by
  simp [State.passedSkip, passedCount_of_beforeLoop h]

theorem afterLoop_of_beforeLoop {q : Sequencer} (h : beforeLoop q = true) : afterLoop q = false := by
  cases q <;> simp [beforeLoop, afterLoop] at h ⊢

/-- The phases are in order: what is past the bit assembly is past `SKIP`, what is past `CHK_SUM` is past both. -/
theorem passedShift_false_of_passedSkip {s : State} (h : s.passedSkip = false) : s.passedShift = false := by
  simp [State.passedShift, h]

theorem passedSum_false_of_passedSkip {s : State} (h : s.passedSkip = false) : s.passedSum = false := by
  simp [State.passedSum, State.passedShift, h]

/-- What is undecoded meets the decoder's part of the invariant. -/
theorem Undecoded.decoderInv {s : State} (u : Undecoded s) : DecoderInv s where
  skip_fields := by simp [u.before_skip, u.skipn_zero, u.zfirst_false]
  bit_index := by
    simp [ne_shift_of_passedSkip u.before_skip, passedShift_false_of_passedSkip u.before_skip, u.bitidx_zero]
  frame_bits := (frame_bits_iff_of_bitidx_zero s u.bitidx_zero).mpr u.frame_zero
  sum_value := by simp [passedSum_false_of_passedSkip u.before_skip, u.sum_zero]
  sum_passed h := by simp [passedSum_false_of_passedSkip u.before_skip] at h
  results := by simp [not_ok_of_passedSkip u.before_skip, u.temp_zero, u.hum_zero]

/-- How `Inv` is built for a state in which nothing is decoded. -/
theorem inv_of_undecoded {s : State} (c : CaptureInv s) (p : PhaseInv s) (u : Undecoded s) : Inv s :=
  (inv_iff s).mpr ⟨c, p, u.decoderInv⟩

/-- Up to `SKIP` the invariant leaves the decoder nothing. -/
theorem Inv.undecoded {s : State} (h : Inv s) (hs : s.passedSkip = false) : Undecoded s := by
  have hskip := h.skip_fields
  have hbit := h.bit_index
  have hres := h.results
  rw [hs, if_neg Bool.false_ne_true] at hskip
  rw [if_neg (ne_shift_of_passedSkip hs), passedShift_false_of_passedSkip hs, if_neg Bool.false_ne_true] at hbit
  rw [if_neg (not_ok_of_passedSkip hs)] at hres
  exact {
    before_skip := hs, skipn_zero := hskip.1, zfirst_false := hskip.2, bitidx_zero := hbit
    frame_zero := (frame_bits_iff_of_bitidx_zero s hbit).mp h.frame_bits
    sum_zero := by rw [h.sum_value, passedSum_false_of_passedSkip hs, if_neg Bool.false_ne_true]
    temp_zero := hres.1, hum_zero := hres.2 }

/-! ## Before the loop -/

/-- A state before the loop in which nothing is captured or decoded keeps the invariant (R82, R93). -/
theorem inv_of_beforeLoop {s : State} (hq : beforeLoop s.seq = true) (hp : s.params.wellFormed = true)
    (line_low : s.dout = false) (dir_phase : s.dir = driving s.seq)
    (fresh : s.lcnt = 0 ∧ s.hcnt = 0 ∧ s.iter = 0 ∧ s.prev = false)
    (idle_zero : s.seq = .idle → s.t0 = 0 ∧ s.anchor = 0) (low_zero : Buffer.zeroFrom s.low 0)
    (high_zero : Buffer.zeroFrom s.high 0) (err : s.err = .noError)
    (u : Undecoded s) : Inv s := by
  obtain ⟨hl, hh, hi, hprev⟩ := fresh
  have capture : CaptureInv s := {
    params_wf := hp
    hcnt_le := by simp [hh]
    alternation := by simp [hl, hh, hprev]
    iter_le := by simp [hi]
    low_tail := by simpa [hl] using low_zero
    high_tail := by simpa [hh] using high_zero }
  have phase : PhaseInv s := {
    line_low, dir_phase, idle_zero
    polling := fun h => by simp [h, beforeLoop] at hq
    fresh := fun _ => ⟨hl, hh, hi, hprev⟩
    loop_end := fun h => by simp [afterLoop_of_beforeLoop hq] at h
    count_passed := fun h => by simp [passedCount_of_beforeLoop hq] at h
    count_failed := fun h => by simp [h, beforeLoop] at hq
    err_busy := fun _ => err }
  exact inv_of_undecoded capture phase u

/-- A step from before the loop to a phase before it, which writes the line and `T0` only, keeps the invariant. -/
theorem Inv.step_before_loop {s : State} (h : Inv s) (hs : beforeLoop s.seq = true) {q : Sequencer} {dir dout : Bool}
    (hq : beforeLoop q = true) (hi : q ≠ .idle) (hdir : dir = driving q) (hdout : dout = false) (t0 : Word) :
    Inv { s with dir := dir, dout := dout, t0 := t0, seq := q } := by
  obtain ⟨hl, hh, -, -⟩ := h.fresh hs
  have low_zero := h.low_tail
  have high_zero := h.high_tail
  rw [hl] at low_zero
  rw [hh] at high_zero
  exact inv_of_beforeLoop hq h.params_wf hdout hdir (h.fresh hs) (fun h => absurd h hi) low_zero high_zero
    (h.err_busy fun e => by simp [e, beforeLoop] at hs)
    { h.undecoded (passedSkip_of_beforeLoop hs) with before_skip := passedSkip_of_beforeLoop hq }

/-- An accepted `START` keeps the invariant (R82). -/
theorem Inv.beginRead {s : State} (h : Inv s) (hs : s.seq = .idle ∨ s.seq = .done) : Inv s.beginRead := by
  have released : s.dir = false := by rcases hs with hs | hs <;> rw [h.dir_phase, hs] <;> rfl
  have frame_zero (k : Fin 5) : s.beginRead.frameByte k = 0 := by fin_cases k <;> rfl
  exact inv_of_beforeLoop rfl h.params_wf h.line_low released ⟨rfl, rfl, rfl, rfl⟩ nofun (zeroFrom_cleared 0)
    (zeroFrom_cleared 0) rfl ⟨rfl, rfl, rfl, rfl, frame_zero, rfl, rfl, rfl⟩

/-- The state after reset keeps the invariant (R32). -/
theorem inv_afterReset (p : Params) (v : Variant) (hp : p.wellFormed = true) : Inv (State.afterReset p v) := by
  have frame_zero (k : Fin 5) : (State.afterReset p v).frameByte k = 0 := by fin_cases k <;> rfl
  exact inv_of_beforeLoop rfl hp rfl rfl ⟨rfl, rfl, rfl, rfl⟩ (fun _ => ⟨rfl, rfl⟩) (zeroFrom_cleared 0)
    (zeroFrom_cleared 0) rfl ⟨rfl, rfl, rfl, rfl, frame_zero, rfl, rfl, rfl⟩

/-! ## The loop -/

/-- The upper ends of the ranges of the parameters (R6). -/
theorem params_range_of_wellFormed {s : State} (h : s.params.wellFormed = true) :
    s.cap ≤ 64 ∧ s.pollBudget < 2 ^ 32 := by
  simp only [Params.wellFormed, Bool.and_eq_true, decide_eq_true_eq] at h
  obtain ⟨⟨-, hcap⟩, hbudget⟩ := h
  exact ⟨hcap, hbudget⟩

/-- A register goes up by one without a wrap where the sum fits (R19, R20, R26). -/
theorem succ_toNat {w : Nat} {b : BitVec w} (h : b.toNat + 1 < 2 ^ w) : (b + 1).toNat = b.toNat + 1 := by
  have hw : (1#w).toNat = 1 := by
    rw [BitVec.toNat_ofNat]
    exact Nat.mod_eq_of_lt (by omega)
  rw [BitVec.toNat_add, show (1 : BitVec w) = 1#w from rfl, hw, Nat.mod_eq_of_lt h]

/-- Recording a phase keeps the counts, the alternation and the unused entries (R20, R21, R22). -/
theorem CaptureInv.observe {s : State} (c : CaptureInv s) (ht : s.ports.lineIn ≠ s.prev) (hh : s.hcnt.toNat < 41) :
    CaptureInv s.observe := by
  obtain ⟨hcap, -⟩ := params_range_of_wellFormed c.params_wf
  have hle := c.hcnt_le
  have halt := c.alternation
  have hlevel : s.ports.lineIn.toNat = 1 - s.prev.toNat := by
    cases hp : s.prev <;> cases hl : s.ports.lineIn <;> simp [hp, hl] at ht ⊢
  rcases observe_cases s with ⟨hp, hl, e⟩ | ⟨hp, hl, e⟩ | ⟨hp, hl, e⟩ | ⟨hp, hl, e⟩ <;> rw [e] <;>
    simp only [hp, Bool.toNat_false, Bool.toNat_true] at halt hlevel
  · have hsucc := succ_toNat (b := s.lcnt) (by omega)
    exact { c with
      alternation := by
        show (s.lcnt + 1).toNat = min (s.hcnt.toNat + s.ports.lineIn.toNat) s.cap
        omega
      low_tail := by
        show Buffer.zeroFrom _ (s.lcnt + 1).toNat
        rw [hsucc]
        exact zeroFrom_record _ _ _ c.low_tail }
  · exact { c with
      alternation := by
        show s.lcnt.toNat = min (s.hcnt.toNat + s.ports.lineIn.toNat) s.cap
        omega }
  · have hsucc := succ_toNat (b := s.hcnt) (by omega)
    exact { c with
      hcnt_le := by
        show (s.hcnt + 1).toNat ≤ min s.cap 41
        omega
      alternation := by
        show s.lcnt.toNat = min ((s.hcnt + 1).toNat + s.ports.lineIn.toNat) s.cap
        omega
      high_tail := by
        show Buffer.zeroFrom _ (s.hcnt + 1).toNat
        rw [hsucc]
        exact zeroFrom_record _ _ _ c.high_tail }
  · exact { c with
      alternation := by
        show s.lcnt.toNat = min (s.hcnt.toNat + s.ports.lineIn.toNat) s.cap
        omega }

/-- An iteration keeps the capture part of the invariant and counts itself. -/
theorem CaptureInv.iterated {s : State} (c : CaptureInv s) (hh : s.hcnt.toNat < 41) (hi : s.iter.toNat < s.pollBudget) :
    CaptureInv s.iterated := by
  obtain ⟨-, hbudget⟩ := params_range_of_wellFormed c.params_wf
  have hsucc := succ_toNat (b := s.iter) (by omega)
  have counted {u : State} (cu : CaptureInv u) (hu : u.iter = s.iter) (hp : u.pollBudget = s.pollBudget) :
      CaptureInv u.countIteration := by
    rw [countIteration_of_fits u (by rw [hu]; omega)]
    exact { cu with
      iter_le := by
        show (u.iter + 1).toNat ≤ u.pollBudget
        rw [hu, hp]
        omega }
  unfold State.iterated
  split
  · exact counted (c.observe ‹_› hh) (by rw [observe_frame]) (by rw [observe_frame]; rfl)
  · exact counted c rfl rfl

/-- The loop ends exactly at its target or its budget (R99). -/
theorem CaptureInv.leaveLoop_cases {s : State} (c : CaptureInv s) :
    ((s.hcnt.toNat = 41 ∨ s.iter.toNat = s.pollBudget) ∧ s.leaveLoop = { s with seq := .chkCnt }) ∨
    ((s.hcnt.toNat < 41 ∧ s.iter.toNat < s.pollBudget) ∧ s.leaveLoop = s) := by
  have hh := c.hcnt_le
  have hi := c.iter_le
  rcases Machine.leaveLoop_cases s with ⟨h, e⟩ | ⟨h1, h2, e⟩
  · exact .inl ⟨by omega, e⟩
  · exact .inr ⟨⟨h1, h2⟩, e⟩

/-- What `PhaseInv` asks in `POLL`. -/
theorem phaseInv_of_poll {s : State} (hs : s.seq = .poll) (line_low : s.dout = false) (released : s.dir = false)
    (polling : s.hcnt.toNat < 41 ∧ s.iter.toNat < s.pollBudget) (err : s.err = .noError) : PhaseInv s where
  line_low := line_low
  dir_phase := by rw [hs]; exact released
  polling _ := polling
  fresh h := by simp [hs, beforeLoop] at h
  idle_zero h := by simp [hs] at h
  loop_end h := by simp [hs, afterLoop] at h
  count_passed h := by simp [hs, State.passedCount] at h
  count_failed h := by simp [hs] at h
  err_busy _ := err

/-- What `PhaseInv` asks of a phase after the loop. -/
theorem phaseInv_of_afterLoop {s : State} (hq : afterLoop s.seq = true) (line_low : s.dout = false)
    (released : s.dir = false) (loop_end : s.hcnt.toNat = 41 ∨ s.iter.toNat = s.pollBudget)
    (count_passed : s.passedCount = true → 40 ≤ s.hcnt.toNat)
    (count_failed : s.seq = .done → s.err = .invalidNumberOfPulses → s.hcnt.toNat < 40)
    (err_busy : s.seq ≠ .done → s.err = .noError) : PhaseInv s where
  line_low := line_low
  dir_phase := by cases hs : s.seq <;> simp [hs, afterLoop] at hq <;> exact released
  polling h := by simp [h, afterLoop] at hq
  fresh h := by simp [afterLoop_of_beforeLoop h] at hq
  idle_zero h := by simp [h, afterLoop] at hq
  loop_end _ := loop_end
  count_passed := count_passed
  count_failed := count_failed
  err_busy := err_busy

/-- `REL_IN` keeps the invariant (R93). -/
theorem Inv.relIn {s : State} (h : Inv s) (hs : s.seq = .relIn) :
    Inv { s with dir := false, prev := false, anchor := s.ports.ts
                 seq := if s.pollBudget = 0 then .chkCnt else .poll } := by
  obtain ⟨c, -, -⟩ := (inv_iff s).mp h
  obtain ⟨-, hh, hi, hp⟩ := h.fresh (by rw [hs]; rfl)
  have u := h.undecoded (by simp [State.passedSkip, State.passedCount, hs])
  have herr := h.err_busy (by simp [hs])
  have hh0 : s.hcnt.toNat = 0 := by rw [hh]; rfl
  have hi0 : s.iter.toNat = 0 := by rw [hi]; rfl
  have halt : s.lcnt.toNat = min (s.hcnt.toNat + false.toNat) s.cap := by rw [← hp]; exact c.alternation
  split
  · exact inv_of_undecoded { c with alternation := halt }
      (phaseInv_of_afterLoop rfl h.line_low rfl (.inr (hi0.trans (Eq.symm ‹_›))) nofun nofun (fun _ => herr))
      { u with before_skip := rfl }
  · have hpoll : s.hcnt.toNat < 41 ∧ s.iter.toNat < s.pollBudget := by omega
    exact inv_of_undecoded { c with alternation := halt }
      (phaseInv_of_poll rfl h.line_low rfl hpoll herr)
      { u with before_skip := rfl }

/-- `POLL` keeps the invariant (R94 to R99). -/
theorem Inv.polled {s : State} (h : Inv s) (hs : s.seq = .poll) : Inv s.polled := by
  obtain ⟨c, -, -⟩ := (inv_iff s).mp h
  obtain ⟨hh, hi⟩ := h.polling hs
  have u := h.undecoded (by simp [State.passedSkip, State.passedCount, hs])
  have released : s.dir = false := by rw [h.dir_phase, hs]; rfl
  have herr := h.err_busy (by simp [hs])
  have c' := c.iterated hh hi
  unfold State.polled
  rcases c'.leaveLoop_cases with ⟨hend, e⟩ | ⟨hgo, e⟩ <;> rw [e]
  · rw [iterated_frame] at c' hend ⊢
    exact inv_of_undecoded { c' with }
      (phaseInv_of_afterLoop rfl h.line_low released hend nofun nofun (fun _ => herr))
      { u with before_skip := rfl }
  · rw [iterated_frame] at c' hgo ⊢
    exact inv_of_undecoded { c' with }
      (phaseInv_of_poll hs h.line_low released hgo herr)
      { u with }

/-! ## The decoder -/

/-- After the loop the line is released (R103). -/
theorem Inv.released {s : State} (h : Inv s) (hs : afterLoop s.seq = true) : s.dir = false := by
  rw [h.dir_phase]
  cases hq : s.seq <;> simp [hq, afterLoop] at hs <;> rfl

/-- The count check passed: the decoder goes on (R110). -/
theorem Inv.countPassed {s : State} (h : Inv s) (hs : s.seq = .chkCnt) (hh : 40 ≤ s.hcnt.toNat) :
    Inv (s.goto .skip) := by
  obtain ⟨c, -, -⟩ := (inv_iff s).mp h
  have after : afterLoop s.seq = true := by rw [hs]; rfl
  have u := h.undecoded (by simp [State.passedSkip, State.passedCount, hs])
  exact inv_of_undecoded { c with }
      (phaseInv_of_afterLoop rfl h.line_low (h.released after) (h.loop_end after) (fun _ => hh) nofun
        (fun _ => h.err_busy (by simp [hs])))
      { u with before_skip := rfl }

/-- The count check failed: the error is raised and nothing is decoded (R110, R143). -/
theorem Inv.countFailed {s : State} (h : Inv s) (hs : s.seq = .chkCnt) (hh : s.hcnt.toNat < 40) :
    Inv (s.raise .invalidNumberOfPulses) := by
  obtain ⟨c, -, -⟩ := (inv_iff s).mp h
  have after : afterLoop s.seq = true := by rw [hs]; rfl
  have u := h.undecoded (by simp [State.passedSkip, State.passedCount, hs])
  exact inv_of_undecoded { c with }
      (phaseInv_of_afterLoop rfl h.line_low (h.released after) (h.loop_end after) nofun (fun _ _ => hh)
        (fun hd => absurd rfl hd))
      { u with before_skip := rfl }

/-- `SKIP` keeps the invariant (R111). -/
theorem Inv.skip {s : State} (h : Inv s) (hs : s.seq = .skip) :
    Inv { s with skipn := narrow s.tick 8 ((s.hcnt.toNat : Int) - 40), zfirst := decide (s.hcnt.toNat = 40)
                 seq := .shift } := by
  obtain ⟨c, -, -⟩ := (inv_iff s).mp h
  have after : afterLoop s.seq = true := by rw [hs]; rfl
  have u := h.undecoded (by simp [State.passedSkip, State.passedCount, hs])
  have hh : 40 ≤ s.hcnt.toNat := h.count_passed (by simp [State.passedCount, hs])
  have hle := h.hcnt_le
  have hskip : (narrow s.tick 8 ((s.hcnt.toNat : Int) - 40)).toNat = s.hcnt.toNat - 40 := by
    rw [show (s.hcnt.toNat : Int) - 40 = ((s.hcnt.toNat - 40 : Nat) : Int) by omega]
    exact narrow_toNat _ _ _ (by omega)
  refine (inv_iff _).mpr ⟨{ c with },
    phaseInv_of_afterLoop rfl h.line_low (h.released after) (h.loop_end after) (fun _ => hh) nofun
      (fun _ => h.err_busy (by simp [hs])), ?_⟩
  exact {
    skip_fields := ⟨hskip, rfl⟩
    bit_index := by
      show s.bitidx.toNat < 40
      simp [u.bitidx_zero]
    frame_bits := by
      refine (frame_bits_iff_of_bitidx_zero _ ?_).mpr ?_
      · exact u.bitidx_zero
      · exact u.frame_zero
    sum_value := u.sum_zero
    sum_passed := nofun
    results := ⟨u.temp_zero, u.hum_zero⟩ }

/-! ## Bit assembly -/

/-- The byte that bit `n` goes into holds `n mod 8` bits before it and one more after it (R112). -/
theorem bitsInByte_current (n : Nat) : bitsInByte n (n / 8) = n % 8 ∧ bitsInByte (n + 1) (n / 8) = n % 8 + 1 := by
  unfold bitsInByte
  omega

/-- The other bytes hold as many bits as before. -/
theorem bitsInByte_other (n k : Nat) (h : k ≠ n / 8) : bitsInByte (n + 1) k = bitsInByte n k := by
  unfold bitsInByte
  omega

/-- Assembling a bit changes no selected duration. -/
theorem selectedDuration_assembleBit (s : State) (k : Fin 5) (x : Bool) (j : Nat) :
    (s.assembleBit k x).selectedDuration j = s.selectedDuration j := by
  rw [assembleBit_eq, setFrameByte_frame]
  rfl

theorem bitidx_assembleBit {s : State} (k : Fin 5) (x : Bool) (h : s.bitidx.toNat < 40) :
    (s.assembleBit k x).bitidx.toNat = s.bitidx.toNat + 1 := by
  rw [assembleBit_eq]
  exact succ_toNat (by omega)

theorem frameByte_assembleBit_same (s : State) (k : Fin 5) (x : Bool) :
    (s.assembleBit k x).frameByte k = shiftInBit (s.frameByte k) x := by
  rw [assembleBit_eq]
  exact frameByte_setFrameByte_same s k _

theorem frameByte_assembleBit_other (s : State) (k j : Fin 5) (x : Bool) (h : j ≠ k) :
    (s.assembleBit k x).frameByte j = s.frameByte j := by
  rw [assembleBit_eq]
  exact frameByte_setFrameByte_other s k j _ h

/-- `SHIFT` keeps the assembled bits what the invariant says they are (R112, R114). -/
theorem frame_bits_assembleBit {s : State} (hn : s.bitidx.toNat < 40) {d : Word}
    (hd : s.selectedDuration s.bitidx.toNat = some d) (k' : Fin 5) (hk' : k'.val = s.bitidx.toNat / 8)
    (hb : ∀ (k : Fin 5) (p : Nat), p < 8 → (s.frameByte k).getLsbD p = s.assembledBit k p) (k : Fin 5) (p : Nat)
    (hp : p < 8) :
    ((s.assembleBit k' (durationBit d)).frameByte k).getLsbD p =
      (s.assembleBit k' (durationBit d)).assembledBit k p := by
  have bit_eq : (s.assembleBit k' (durationBit d)).assembledBit k p =
      (decide (p < bitsInByte (s.bitidx.toNat + 1) k) &&
      durationBit ((s.selectedDuration (8 * k + bitsInByte (s.bitidx.toNat + 1) k - 1 - p)).getD 0)) := by
    rw [State.assembledBit, bitidx_assembleBit _ _ hn, selectedDuration_assembleBit]
  rw [bit_eq]
  by_cases hk : k = k'
  · obtain ⟨before, after⟩ := bitsInByte_current s.bitidx.toNat
    rw [hk, frameByte_assembleBit_same, hk', after]
    cases p with
    | zero =>
      rw [shiftInBit_getLsbD_zero, show 8 * (s.bitidx.toNat / 8) + (s.bitidx.toNat % 8 + 1) - 1 - 0 = s.bitidx.toNat
        by omega, hd]
      simp
    | succ p =>
      rw [shiftInBit_getLsbD_succ _ _ _ hp, hb k' p (by omega), State.assembledBit, hk', before,
        show 8 * (s.bitidx.toNat / 8) + (s.bitidx.toNat % 8 + 1) - 1 - (p + 1) =
          8 * (s.bitidx.toNat / 8) + s.bitidx.toNat % 8 - 1 - p by omega]
      simp
  · have hne : k.val ≠ s.bitidx.toNat / 8 := fun e => hk (Fin.ext (e.trans hk'.symm))
    rw [frameByte_assembleBit_other _ _ _ _ hk, hb k p hp, State.assembledBit, bitsInByte_other _ _ hne]

/-- What the invariant says of a state past `SKIP` and before `DONE`. -/
structure Decoding (s : State) : Prop where
  capture : CaptureInv s
  line_low : s.dout = false
  released : s.dir = false
  loop_end : s.hcnt.toNat = 41 ∨ s.iter.toNat = s.pollBudget
  forty : 40 ≤ s.hcnt.toNat
  selection : s.skipn.toNat = s.hcnt.toNat - 40 ∧ s.zfirst = decide (s.hcnt.toNat = 40)
  no_error : s.err = .noError
  no_result : s.temp = 0 ∧ s.hum = 0

theorem passedCount_of_passedSkip {s : State} (h : s.passedSkip = true) : s.passedCount = true := by
  unfold State.passedSkip at h
  exact (Bool.and_eq_true_iff.mp h).1

theorem afterLoop_of_passedCount {s : State} (h : s.passedCount = true) : afterLoop s.seq = true := by
  cases hs : s.seq <;> simp [hs, State.passedCount] at h <;> rfl

/-- After `SKIP` the selection is that of R111. -/
theorem Inv.selection {s : State} (h : Inv s) (hs : s.passedSkip = true) :
    s.skipn.toNat = s.hcnt.toNat - 40 ∧ s.zfirst = decide (s.hcnt.toNat = 40) := by
  simpa [hs] using h.skip_fields

theorem Inv.decoding {s : State} (h : Inv s) (hs : s.passedSkip = true) (hq : s.seq ≠ .done) : Decoding s where
  capture := ((inv_iff s).mp h).1
  line_low := h.line_low
  released := h.released (afterLoop_of_passedCount (passedCount_of_passedSkip hs))
  loop_end := h.loop_end (afterLoop_of_passedCount (passedCount_of_passedSkip hs))
  forty := h.count_passed (passedCount_of_passedSkip hs)
  selection := h.selection hs
  no_error := h.err_busy hq
  no_result := by simpa [hq] using h.results

/-- After the bit assembly `BITIDX` is 40 (R26). -/
theorem Inv.assembled {s : State} (h : Inv s) (hs : s.passedShift = true) : s.bitidx.toNat = 40 := by
  have hq : s.seq ≠ .shift := fun hq => by simp [State.passedShift, hq] at hs
  simpa [hq, hs] using h.bit_index

/-- `SHIFT` keeps the invariant (R112). -/
theorem Inv.assembleBit {s : State} (h : Inv s) (hs : s.seq = .shift) (hn : s.bitidx.toNat < 40) {d : Word}
    (hd : s.selectedDuration s.bitidx.toNat = some d) :
    Inv (s.assembleBit ⟨s.bitidx.toNat / 8, by omega⟩ (durationBit d)) := by
  have D := h.decoding (by simp [State.passedSkip, State.passedCount, hs]) (by simp [hs])
  have no_sum : s.sum = 0 := by simpa [State.passedSum, State.passedShift, hs] using h.sum_value
  have bits := frame_bits_assembleBit hn hd ⟨s.bitidx.toNat / 8, by omega⟩ rfl h.frame_bits
  have hbit := bitidx_assembleBit ⟨s.bitidx.toNat / 8, by omega⟩ (durationBit d) hn
  rw [assembleBit_eq, setFrameByte_frame] at bits hbit ⊢
  by_cases hlast : s.bitidx.toNat + 1 = 40
  · rw [if_pos hlast] at bits hbit ⊢
    exact (inv_iff _).mpr ⟨{ D.capture with },
      phaseInv_of_afterLoop rfl D.line_low D.released D.loop_end (fun _ => D.forty) nofun (fun _ => D.no_error),
      { skip_fields := D.selection, bit_index := hbit.trans hlast, frame_bits := bits, sum_value := no_sum
        sum_passed := nofun, results := D.no_result }⟩
  · rw [if_neg hlast, hs] at bits hbit ⊢
    have below : s.bitidx.toNat + 1 < 40 := by omega
    exact (inv_iff _).mpr ⟨{ D.capture with },
      phaseInv_of_afterLoop rfl D.line_low D.released D.loop_end (fun _ => D.forty) nofun (fun _ => D.no_error),
      { skip_fields := D.selection, bit_index := hbit.trans_lt below, frame_bits := bits, sum_value := no_sum
        sum_passed := nofun, results := D.no_result }⟩

/-! ## The two last steps of the decoder -/

/-- The sum check passed (R120). -/
theorem Inv.sumPassed {s : State} (h : Inv s) (hs : s.seq = .chkSum) (hsum : checksum s.b0 s.b1 s.b2 s.b3 = s.b4) :
    Inv { s with sum := checksum s.b0 s.b1 s.b2 s.b3, seq := .conv } := by
  have D := h.decoding (by simp [State.passedSkip, State.passedCount, hs]) (by simp [hs])
  have assembled := h.assembled (by simp [State.passedShift, State.passedSkip, State.passedCount, hs])
  exact (inv_iff _).mpr ⟨{ D.capture with },
    phaseInv_of_afterLoop rfl D.line_low D.released D.loop_end (fun _ => D.forty) nofun (fun _ => D.no_error),
    { skip_fields := D.selection, bit_index := assembled, frame_bits := h.frame_bits, sum_value := rfl
      sum_passed := fun _ => ⟨fun _ => hsum, fun _ => D.no_error⟩, results := D.no_result }⟩

/-- The sum check failed: the error is raised and no result is published (R120, R143). -/
theorem Inv.sumFailed {s : State} (h : Inv s) (hs : s.seq = .chkSum) (hsum : checksum s.b0 s.b1 s.b2 s.b3 ≠ s.b4) :
    Inv { s with sum := checksum s.b0 s.b1 s.b2 s.b3, err := .invalidChecksum, seq := .done } := by
  have D := h.decoding (by simp [State.passedSkip, State.passedCount, hs]) (by simp [hs])
  have assembled := h.assembled (by simp [State.passedShift, State.passedSkip, State.passedCount, hs])
  exact (inv_iff _).mpr ⟨{ D.capture with },
    phaseInv_of_afterLoop rfl D.line_low D.released D.loop_end (fun _ => D.forty) nofun (fun hd => absurd rfl hd),
    { skip_fields := D.selection, bit_index := assembled, frame_bits := h.frame_bits, sum_value := rfl
      sum_passed := fun _ => ⟨nofun, fun e => absurd e hsum⟩, results := D.no_result }⟩

/-- The converted temperature fits in `TEMP` (R131). -/
theorem temp_toInt (v : Variant) (b2 b3 : Byte) :
    (BitVec.ofInt 32 (fahrenheitHundredths (celsiusTenths v b2 b3))).toInt =
      fahrenheitHundredths (celsiusTenths v b2 b3) := by
  have magnitude_lt : magnitudeTenths v b2 b3 < 65536 := by
    have h2 := b2.isLt
    have h3 := b3.isLt
    have h7 : (b2 &&& 0x7F).toNat ≤ b2.toNat := by
      rw [BitVec.toNat_and]; exact Nat.and_le_left
    unfold magnitudeTenths
    split <;> omega
  have hc : -65536 < celsiusTenths v b2 b3 ∧ celsiusTenths v b2 b3 < 65536 := by
    unfold celsiusTenths
    split <;> omega
  unfold fahrenheitHundredths
  rw [BitVec.toInt_ofInt]
  exact Int.bmod_eq_of_le (by omega) (by omega)

/-- The humidity fits in `HUM` (R131). -/
theorem hum_toNat (v : Variant) (b0 b1 : Byte) :
    (BitVec.ofNat 32 (humidityTenths v b0 b1)).toNat = humidityTenths v b0 b1 := by
  have h0 := b0.isLt
  have h1 := b1.isLt
  have hlt : humidityTenths v b0 b1 < 2 ^ 32 := by
    unfold humidityTenths
    split <;> omega
  rw [BitVec.toNat_ofNat, Nat.mod_eq_of_lt hlt]

/-- `CONV` keeps the invariant (R125, R133). -/
theorem Inv.conv {s : State} (h : Inv s) (hs : s.seq = .conv) :
    Inv { s with temp := BitVec.ofInt 32 (fahrenheitHundredths (celsiusTenths s.variant s.b2 s.b3))
                 hum := BitVec.ofNat 32 (humidityTenths s.variant s.b0 s.b1), seq := .done } := by
  have D := h.decoding (by simp [State.passedSkip, State.passedCount, hs]) (by simp [hs])
  have assembled := h.assembled (by simp [State.passedShift, State.passedSkip, State.passedCount, hs])
  have past_sum : s.passedSum = true := by
    simp [State.passedSum, State.passedShift, State.passedSkip, State.passedCount, hs]
  have hsum : s.sum = checksum s.b0 s.b1 s.b2 s.b3 := by simpa [past_sum] using h.sum_value
  refine (inv_iff _).mpr ⟨{ D.capture with },
    phaseInv_of_afterLoop rfl D.line_low D.released D.loop_end (fun _ => D.forty)
      (fun _ he => by simp [D.no_error] at he) (fun _ => D.no_error), ?_⟩
  exact {
    skip_fields := by simpa [State.passedSkip, State.passedCount, D.no_error] using D.selection
    bit_index := by simpa [State.passedShift, State.passedSkip, State.passedCount, D.no_error] using assembled
    frame_bits := h.frame_bits
    sum_value := by
      simpa [State.passedSum, State.passedShift, State.passedSkip, State.passedCount, D.no_error] using hsum
    sum_passed := fun _ => h.sum_passed past_sum
    results := by
      rw [if_pos ⟨rfl, D.no_error⟩]
      exact ⟨temp_toInt _ _ _, hum_toNat _ _ _⟩ }

/-! ## Every step -/

/-- Whatever the engine's operation answers keeps the invariant. -/
theorem engineStep_keeps_inv {s t : State} {q : Sequencer} (h : Inv s) (hs : s.seq = q) (e : EngineStep s q t) :
    Inv t := by
  cases e with
  | rest => exact h
  | start hq => exact h.beginRead (hs ▸ hq)
  | drvOut => exact h.step_before_loop (q := .drvLow) (by rw [hs]; rfl) rfl nofun rfl h.line_low s.t0
  | drvLow =>
    have driven : s.dir = true := by rw [h.dir_phase, hs]; rfl
    exact h.step_before_loop (q := .hold) (by rw [hs]; rfl) rfl nofun driven rfl _
  | holdOn => exact h
  | holdEnd =>
    have driven : s.dir = true := by rw [h.dir_phase, hs]; rfl
    exact h.step_before_loop (q := .relIn) (by rw [hs]; rfl) rfl nofun driven h.line_low s.t0
  | relIn => exact h.relIn hs
  | poll => exact h.polled hs
  | countFailed hc => exact h.countFailed hs hc
  | countPassed hc => exact h.countPassed hs hc
  | skip => exact h.skip hs
  | shift hn d hd => exact h.assembleBit hs hn hd
  | sumFailed hsum => exact h.sumFailed hs hsum
  | sumPassed hsum => exact h.sumPassed hs hsum
  | conv => exact h.conv hs

/-- Settles O38: nothing is captured or decoded in the state after reset. -/
theorem invariantHoldsAfterReset : Obligations.InvariantHoldsAfterReset := inv_afterReset

/-- Settles O39: a reset, the beginning of a read and each operation of the engine keep the invariant. -/
theorem everyStepKeepsTheInvariant : Obligations.EveryStepKeepsTheInvariant := by
  intro s t h hstep
  rcases step_next_cases s t hstep with ⟨-, r, rfl⟩ | ⟨-, hq, rfl⟩ | ⟨-, r, e⟩
  · exact (inv_afterReset s.params (variantOfStrap s.nextPorts.variantSel) h.params_wf).of_sameRegisters rfl
  · exact (h.of_sameRegisters (t := s.sample) rfl).beginRead hq
  · exact engineStep_keeps_inv (h.of_sameRegisters (t := { s.sample with hRdata := r }) rfl) rfl e

end Sys2Proof.Machine
end

section
/-! PROOFS, part 5. What the invariant says of runs from reset and of the frame bytes (R15 to R26, R114, R141). -/

namespace Sys2Proof.Machine

/-! ## Runs -/

/-- In `SHIFT` the selected duration exists (R113). -/
theorem Inv.selectedDuration_isSome {s : State} (h : Inv s) (hs : s.seq = .shift) :
    s.bitidx.toNat < 40 ∧ ∃ d, s.selectedDuration s.bitidx.toNat = some d := by
  have D := h.decoding (by simp [State.passedSkip, State.passedCount, hs]) (by simp [hs])
  have hbit : s.bitidx.toNat < 40 := by simpa [hs] using h.bit_index
  have hforty := D.forty
  have hle := h.hcnt_le
  have hskip := D.selection.1
  obtain ⟨hcap, -⟩ := params_range_of_wellFormed h.params_wf
  refine ⟨hbit, ?_⟩
  rcases selectedDuration_cases s s.bitidx.toNat with ⟨-, -, e⟩ | ⟨-, hlt, e⟩ | ⟨-, hge, -⟩
  · exact ⟨0, e⟩
  · exact ⟨_, e.trans (Vector.getElem?_eq_getElem (by omega))⟩
  · omega

/-- From a state that keeps the invariant the engine's operation answers a next state. -/
theorem Inv.engine_answers {s : State} (h : Inv s) : ∃ t, exec (engineOp s.seq) s = .next t := by
  by_cases hs : s.seq = .shift
  · obtain ⟨hn, d, hd⟩ := h.selectedDuration_isSome hs
    rw [hs]
    exact ⟨_, exec_of_engineStep _ _ _ (.shift hn d hd)⟩
  · refine exec_next_of_ne_shift _ _ fun e => hs ?_
    cases hq : s.seq <;> simp [hq, engineOp] at e ⊢

/-- From a state that keeps the invariant a step answers a next state. -/
theorem Inv.step_answers {s : State} (h : Inv s) : ∃ t, step s = .next t := by
  cases hr : s.nextPorts.rst
  · rcases step_cases s hr with ⟨-, r, e, -⟩ | ⟨-, -, e⟩
    · rw [e]
      exact (h.of_sameRegisters (t := { s.sample with hRdata := r }) rfl).engine_answers
    · exact ⟨_, e⟩
  · exact ⟨_, step_reset s hr⟩

/-- A run from a state that keeps the invariant goes on for ever in states that keep it. -/
theorem Inv.run {s : State} (h : Inv s) (n : Nat) : ∃ t, run n s = .next t ∧ Inv t ∧ t.params = s.params := by
  induction n generalizing s with
  | zero => exact ⟨s, rfl, h, rfl⟩
  | succ n ih =>
    obtain ⟨u, hu⟩ := h.step_answers
    obtain ⟨t, ht, hinv, hp⟩ := ih (everyStepKeepsTheInvariant s u h hu)
    exact ⟨t, (run_succ n s u hu).trans ht, hinv, hp.trans (step_model_fields s u hu).2.2⟩

/-- An entry of a buffer in canonical form (R21). -/
theorem getElem_of_zeroFrom {b : Buffer} {n : Nat} (hb : Buffer.zeroFrom b n) {i : Nat} (h : i < 64) (hi : n ≤ i) :
    b[i] = 0 := by
  simpa [h] using hb i hi

/-- Settles O41: the run keeps the invariant, which says all the rules. -/
theorem everyRunKeepsTheRegisterRules : Obligations.EveryRunKeepsTheRegisterRules := by
  intro p v inputs k n hp
  have start : Inv { State.afterReset p v with env := inputs, tick := k } :=
    (inv_afterReset p v hp).of_sameRegisters rfl
  obtain ⟨t, hrun, h, hparams⟩ := start.run n
  have hcap : t.cap = p.cap := congrArg Params.cap hparams
  have hbudget : t.pollBudget = p.pollBudget := congrArg Params.pollBudget hparams
  have line_driven : t.lineOe = true ↔ t.seq = .drvLow ∨ t.seq = .hold ∨ t.seq = .relIn := by
    rw [show t.lineOe = driving t.seq from h.dir_phase]
    cases t.seq <;> simp [driving]
  have budget_used (hd : t.seq = .done) (he : t.err = .invalidNumberOfPulses) :
      t.hcnt.toNat < 40 ∧ t.iter.toNat = p.pollBudget := by
    have few := h.count_failed hd he
    have ended := h.loop_end (by rw [hd]; rfl)
    omega
  refine ⟨t, hrun, hcap ▸ h.alternation, hcap ▸ h.hcnt_le, hbudget ▸ h.iter_le, h.line_low, line_driven, ?_, ?_,
    h.err_busy, budget_used⟩
  · exact fun i hi => ⟨getElem_of_zeroFrom h.low_tail hi, getElem_of_zeroFrom h.high_tail hi⟩
  · intro hfail
    have no_success : ¬ (t.seq = .done ∧ t.err = .noError) := fun ⟨hd, he⟩ => hfail.elim (· hd) (· he)
    simpa [no_success] using h.results

/-! ## The frame bytes -/

/-- A byte is the sum of its bits, the highest first. -/
theorem byte_toNat_eq_sum (b : Byte) :
    b.toNat = ((List.range 8).map fun i => (b.getLsbD (7 - i)).toNat * 2 ^ (7 - i)).sum := by
  revert b
  decide

/-- Past the bit assembly the selected durations are those of the train (R111, R113). -/
theorem Inv.selectedDuration_eq_trainDuration {s : State} (h : Inv s) (hs : s.passedSkip = true) {j : Nat}
    (hj : j < 40) :
    (s.selectedDuration j).getD 0 = trainDuration s.hcnt.toNat s.high j := by
  have hforty := h.count_passed (passedCount_of_passedSkip hs)
  have hle := h.hcnt_le
  obtain ⟨hskip, hzero⟩ := h.selection hs
  unfold trainDuration
  rcases selectedDuration_cases s j with ⟨h0, hz, e⟩ | ⟨hz, -, e⟩ | ⟨-, hge, -⟩
  · rw [e, if_pos ⟨by simpa [hzero] using hz, h0⟩]
    rfl
  · rw [e, hskip, if_neg fun ⟨h1, h2⟩ => hz ⟨h2, by simp [hzero, h1]⟩]
  · omega

/-- `BITIDX` is 40 only past the bit assembly (R26). -/
theorem Inv.passedShift_of_bitidx {s : State} (h : Inv s) (hb : s.bitidx.toNat = 40) : s.passedShift = true := by
  have hbit := h.bit_index
  split at hbit
  · omega
  · split at hbit
    · assumption
    · simp [hbit] at hb

theorem passedSkip_of_passedShift {s : State} (h : s.passedShift = true) : s.passedSkip = true := by
  unfold State.passedShift at h
  exact (Bool.and_eq_true_iff.mp h).1

/-- Settles O49: with `BITIDX` = 40 every byte holds eight bits, and bit `7 - i` of byte `k` is that of duration
`8 * k + i`. -/
theorem frameBytesAreTheClosedForm : Obligations.FrameBytesAreTheClosedForm := by
  intro s h hb k
  have hs := passedSkip_of_passedShift (h.passedShift_of_bitidx hb)
  have full : bitsInByte 40 k = 8 := by unfold bitsInByte; omega
  have bit_eq (i : Nat) (hi : i < 8) : (s.frameByte k).getLsbD (7 - i) =
      durationBit (trainDuration s.hcnt.toNat s.high (8 * k + i)) := by
    rw [h.frame_bits k (7 - i) (by omega), hb, full, show 8 * k.val + 8 - 1 - (7 - i) = 8 * k + i by omega,
      h.selectedDuration_eq_trainDuration hs (by omega), decide_eq_true (by omega), Bool.true_and]
  rw [byte_toNat_eq_sum, trainByte]
  congr 1
  exact List.map_congr_left fun i hi => by rw [bit_eq i (List.mem_range.mp hi)]

end Sys2Proof.Machine
end

section
/-! PROOFS, part 6. The host register map and the operations of a step, by their inputs (R42 to R49, R54, R69). -/

namespace Sys2Proof.Machine

/-! ## The operations of a step -/

/-- A decoded host operation other than a write to `CMD` is the host operation of the step (R72). -/
theorem hostOp_of_decode {p : Ports} {i : Instr}
    (h : decodeHostAccess (hostAccessWord p.hValid p.hWrite p.hAddr p.hWdata) = .ok i) (hi : ∀ v, i ≠ .wr 0 v) :
    hostOp p = some i := by
  unfold hostOp
  rw [h]
  split
  · rename_i a v e
    cases e
    exact if_neg fun ha => hi v (by rw [ha])
  · rename_i e
    cases e
    rfl
  · rename_i e
    cases e

/-- A write to `CMD` is the command that its word decodes to (R61). -/
theorem hostOp_of_command {p : Ports} (hv : p.hValid = true) (hw : p.hWrite = true) (ha : p.hAddr = 0) :
    hostOp p = some (decodeCommand p.hWdata) := by
  rw [hostOp_eq, if_pos hv, if_pos hw, if_pos ha]
  rfl

/-- Without `h_valid` a step has no host operation (R72). -/
theorem hostOp_of_not_valid {p : Ports} (hv : p.hValid = false) : hostOp p = none := by
  rw [hostOp_eq, if_neg (by simp [hv])]

/-- Settles O6: `cycleOps` lists the decoded operations, and `runOps` runs them in that order. -/
theorem stepRunsTheDecodedOperations : Obligations.StepRunsTheDecodedOperations := by
  intro s
  refine ⟨fun hr => ⟨fun hn => ?_, fun i t hi ht => ?_⟩, fun hr e he => ?_⟩
  · rw [step, cycle, sample_ports, cycleOps_reset _ _ hr, hn]
    exact runOps_one _ _
  · rw [step, cycle, sample_ports, cycleOps_reset _ _ hr, hi]
    exact (runOps_cons _ _ _ _ ht).trans (runOps_one _ _)
  · obtain rfl : engineOp s.seq = e := Except.ok.inj ((decode_sequencer_code s.seq).symm.trans he)
    refine ⟨fun hv => step_alone s hr (hostOp_of_not_valid hv), fun i t hi hne ht => ?_, fun hv hw ha i t hi ht => ?_⟩
    · exact step_hosted s t i hr (hostOp_of_decode hi hne) ht
    · cases hi
      exact step_hosted s t _ hr (hostOp_of_command hv hw ha) ht

/-! ## The register map -/

/-- A write to any address but `CMD` is ignored (R49). -/
theorem exec_wr_ignored (s : State) (a : BitVec 8) (v : Word) (ha : a ≠ 0) : exec (.wr a v) s = .next s :=
  congrArg _ (if_neg fun h => ha h.1)

/-- `VARIANT` by its code (R64). -/
theorem variantWord_eq (s : State) : s.variantWord = if s.variant = .type22 then 1 else 0 := by
  unfold State.variantWord
  cases s.variant <;> rfl

/-- The word of an existing entry of the `LOW` window (R42). -/
theorem regRead_low_of_lt_cap (s : State) {i : Nat} (h : i < 64) (hi : i < s.cap) :
    s.regRead (BitVec.ofNat 8 (0x40 + i)) = s.low[i] := by
  rw [regRead_low s i h, State.lowAt, if_pos hi, Vector.getElem?_eq_getElem h, Option.getD_some]

/-- The word of an existing entry of the `HIGH` window (R42). -/
theorem regRead_high_of_lt_cap (s : State) {i : Nat} (h : i < 64) (hi : i < s.cap) :
    s.regRead (BitVec.ofNat 8 (0x80 + i)) = s.high[i] := by
  rw [regRead_high s i h, State.highAt, if_pos hi, Vector.getElem?_eq_getElem h, Option.getD_some]

/-- The windows show 0 from `CAP` on (R42). -/
theorem regRead_windows_of_cap_le (s : State) {i : Nat} (h : i < 64) (hi : s.cap ≤ i) :
    s.regRead (BitVec.ofNat 8 (0x40 + i)) = 0 ∧ s.regRead (BitVec.ofNat 8 (0x80 + i)) = 0 := by
  rw [regRead_low s i h, regRead_high s i h, State.lowAt, State.highAt, if_neg (by omega), if_neg (by omega)]
  exact ⟨rfl, rfl⟩

/-- The reserved addresses below and above the windows show 0 (R47). -/
theorem regRead_reserved (s : State) {a : BitVec 8} (h : (0x0C ≤ a.toNat ∧ a.toNat ≤ 0x3F) ∨ 0xC0 ≤ a.toNat) :
    s.regRead a = 0 := by
  rw [regRead_from_0C s a (by omega)]
  rcases h with ⟨-, h⟩ | h
  · rw [if_neg (by omega), if_neg (by omega)]
  · have past_end : s.highAt (a.toNat - 0x80) = none := by simp [State.highAt]; omega
    rw [if_pos (by omega), past_end]
    rfl

/-- After reset the packed words show 0 (R32, R42): all their fields are 0. -/
theorem afterReset_words (p : Params) (v : Variant) :
    (State.afterReset p v).statusWord = 0 ∧ (State.afterReset p v).frame0Word = 0 ∧
    (State.afterReset p v).frame1Word = 0 ∧ (State.afterReset p v).countsWord = 0 ∧
    (State.afterReset p v).dbgWord = 0 := by
  refine ⟨?_, ?_, ?_, ?_, ?_⟩ <;> apply BitVec.eq_of_toNat_eq
  · exact statusWord_toNat _
  · simp [frame0Word_toNat]
  · simp [frame1Word_toNat]
  · simp [countsWord_toNat]
  · simp [dbgWord_toNat]

/-- After reset every entry of both windows shows 0 (R21, R32). -/
theorem afterReset_entries (p : Params) (v : Variant) (i : Nat) :
    ((State.afterReset p v).lowAt i).getD 0 = 0 ∧ ((State.afterReset p v).highAt i).getD 0 = 0 := by
  have entry_zero : (if i < p.cap then (Vector.replicate 64 (0 : Word))[i]? else none).getD 0 = 0 := by
    split
    · exact buffer_cleared i
    · rfl
  exact ⟨entry_zero, entry_zero⟩

/-- After reset every address but that of `VARIANT` shows 0 (R32, R42). -/
theorem regRead_afterReset (p : Params) (v : Variant) (a : BitVec 8) :
    (State.afterReset p v).regRead a = if a = 0x02 ∧ v = .type22 then 1 else 0 := by
  by_cases hv : a = 0x02
  · subst hv
    exact (variantWord_eq _).trans (if_congr (by simp) rfl rfl)
  rw [if_neg fun h => hv h.1]
  rcases Nat.lt_or_ge a.toNat 0x0C with h | h
  · obtain ⟨status, frame0, frame1, counts, dbg⟩ := afterReset_words p v
    have hm := addr_below_0C a h
    simp only [List.mem_cons, List.not_mem_nil, or_false, hv, false_or] at hm
    rcases hm with rfl | rfl | rfl | rfl | rfl | rfl | rfl | rfl | rfl | rfl | rfl
    · rfl
    · exact status
    · rfl
    · rfl
    · exact frame0
    · exact frame1
    · exact counts
    · rfl
    · exact dbg
    · rfl
    · rfl
  · obtain ⟨low_zero, -⟩ := afterReset_entries p v (a.toNat - 0x40)
    obtain ⟨-, high_zero⟩ := afterReset_entries p v (a.toNat - 0x80)
    rw [regRead_from_0C _ _ h, high_zero, low_zero, ite_self, ite_self]

/-- Settles O9, address by address. -/
theorem registerMapWords : Obligations.RegisterMapWords := fun s =>
  ⟨rfl, variantWord_eq s, rfl, rfl, frame0Word_toNat s, frame1Word_toNat s, countsWord_toNat s, rfl, rfl, rfl,
    fun _ h hi => ⟨regRead_low_of_lt_cap s h hi, regRead_high_of_lt_cap s h hi⟩,
    fun _ h hi => regRead_windows_of_cap_le s h hi, fun _ => regRead_reserved s, regRead_afterReset,
    exec_wr_ignored s⟩

/-- The number that `STATUS` shows where `STATE` is `q` and `ERR` is `e` (R27, R44). -/
def statusNumber (q : Sequencer) (e : ErrCode) : Nat :=
  (decide (q ≠ .idle ∧ q ≠ .done)).toNat + 2 * (decide (q = .done)).toNat + 4 * (decide (q = .done ∧ e = .noError)).toNat
    + 16 * e.code.toNat + 256 * q.code.toNat

/-- `STATUS` is decided by `STATE` and `ERR` alone (R44). -/
theorem statusWord_eq {s : State} {q : Sequencer} {e : ErrCode} (hq : s.seq = q) (he : s.err = e) :
    s.statusWord = BitVec.ofNat 32 (statusNumber q e) := by
  have hw : s.statusWord.toNat = statusNumber q e := hq ▸ he ▸ statusWord_toNat s
  rw [← hw, BitVec.ofNat_toNat, BitVec.setWidth_eq]

/-- While busy `DONE_F` and `OK` are 0 (R27). -/
theorem flags_of_busy {s : State} (hb : s.busy = true) : s.doneF = false ∧ s.okF = false := by
  obtain ⟨-, not_done⟩ := decide_eq_true_iff.mp hb
  exact ⟨decide_eq_false not_done, decide_eq_false fun h => not_done h.1⟩

/-- Settles O10: `statusWord_toNat` gives the fields; at rest `STATE` and `ERR` decide the word, and while busy the
invariant has `ERR` = 0. -/
theorem statusWordFields : Obligations.StatusWordFields := by
  intro s
  refine ⟨statusWord_toNat s, fun v => exec_wr_ignored s _ v (by decide), fun h => ?_⟩
  refine ⟨fun hq => statusWord_eq hq (h.err_busy (by simp [hq])), statusWord_eq, statusWord_eq, statusWord_eq,
    fun hb => ?_⟩
  obtain ⟨not_done, not_ok⟩ := flags_of_busy hb
  have no_error : s.err = .noError := h.err_busy fun hq => by simp [State.doneF, hq] at not_done
  have hw : (s.regRead 0x01).toNat = _ := statusWord_toNat s
  rw [hw, hb, not_done, not_ok, no_error]
  show 1 + 0 + 0 + 0 + 256 * s.seq.code.toNat = _
  omega

/-- Settles O11: the fields of `DBG` are those of `dbgWord_toNat`. -/
theorem debugWordFields : Obligations.DebugWordFields := fun s =>
  ⟨dbgWord_toNat s, fun v => exec_wr_ignored s _ v (by decide)⟩

end Sys2Proof.Machine
end

section
/-! PROOFS, part 7. What a host access leaves: the word of its read and nothing else; who writes the results; rest
(R48 to R56, R71, R82, R88, R133). -/

namespace Sys2Proof.Machine

/-! ## Reads -/

/-- Only a write begins a read of the sensor (R61, R72). -/
theorem startNow_of_not_write {p : Ports} (hw : p.hWrite = false) : startNow p = false := by
  rw [← Bool.not_eq_true, startNow_iff]
  simp [hw]

/-- Settles O7: a reset step shows the word itself, and the engine's operation keeps `h_rdata` as the read left it. -/
theorem readReturnsThePreStepWord : Obligations.ReadReturnsThePreStepWord := by
  intro s t hv hw h
  cases hr : s.nextPorts.rst
  · rcases step_cases s hr with ⟨-, r, hs, hread⟩ | ⟨hs, -⟩
    · rw [engineStep_hRdata _ _ _ (engineStep_of_exec _ _ _ (hs.symm.trans h)), hread, if_pos ⟨hv, hw⟩]
    · simp [startNow_of_not_write hw] at hs
  · cases (step_reset s hr).symm.trans h
    exact if_pos ⟨hv, hw⟩

/-! ## Accesses without an effect -/

/-- The sampled state as it would be without the host access of the step. -/
def State.withoutAccess (s : State) : State := { s with ports := { s.ports with hValid := false }, hRdata := none }

/-- Any host access but a `START` that the engine at rest accepts is inert (R49, R71, R81, R82). -/
theorem startNow_of_inertAccess {s : State} {p : Ports} (h : inertAccess s p) (hq : s.seq = .idle ∨ s.seq = .done) :
    startNow p = false := by
  rw [← Bool.not_eq_true, startNow_iff]
  rintro ⟨hv, hw, ha, hb⟩
  rcases h with h | h | h | h | h
  · simp [hv] at h
  · simp [hw] at h
  · exact h ha
  · cases hb.symm.trans h
  · obtain ⟨not_idle, not_done⟩ := decide_eq_true_iff.mp h
    exact hq.elim not_idle not_done

theorem recordLow_withoutAccess (s : State) (d : Word) :
    s.withoutAccess.recordLow d = (s.recordLow d).withoutAccess := by
  unfold State.recordLow
  rw [apply_ite State.withoutAccess]
  rfl

theorem recordHigh_withoutAccess (s : State) (d : Word) :
    s.withoutAccess.recordHigh d = (s.recordHigh d).withoutAccess := by
  unfold State.recordHigh
  rw [apply_ite State.withoutAccess]
  rfl

theorem observe_withoutAccess (s : State) : s.withoutAccess.observe = s.observe.withoutAccess := by
  simp only [State.observe, recordHigh_withoutAccess, recordLow_withoutAccess]
  rw [show s.withoutAccess.prev = s.prev from rfl]
  split <;> rfl

theorem polled_withoutAccess (s : State) : s.withoutAccess.polled = s.polled.withoutAccess := by
  have leave (u : State) : u.withoutAccess.leaveLoop = u.leaveLoop.withoutAccess := by
    unfold State.leaveLoop
    rw [apply_ite State.withoutAccess]
    rfl
  have iterate : s.withoutAccess.iterated = s.iterated.withoutAccess := by
    unfold State.iterated
    rw [observe_withoutAccess, show s.withoutAccess.ports.lineIn = s.ports.lineIn from rfl,
      show s.withoutAccess.prev = s.prev from rfl, ← apply_ite State.withoutAccess]
    rfl
  rw [State.polled, iterate, leave, State.polled]

theorem assembleBit_withoutAccess (s : State) (k : Fin 5) (x : Bool) :
    s.withoutAccess.assembleBit k x = (s.assembleBit k x).withoutAccess := by
  rw [assembleBit_eq, assembleBit_eq]
  fin_cases k <;> rfl

/-- `SHIFT` stops where the selected duration does not exist (log 7). -/
theorem execShift_of_no_entry {s : State} (hn : s.bitidx.toNat < 40)
    (hd : s.selectedDuration s.bitidx.toNat = none) : execShift s = .fault .noSuchBufferEntry := by
  rcases execShift_cases s with ⟨-, d, hd', -⟩ | ⟨-, -, e⟩ | ⟨hn', -⟩
  · cases hd.symm.trans hd'
  · exact e
  · omega

/-- The state of an outcome replaced where it is a next state. -/
def mapNext (f : State → State) : Host.Outcome State Fault Refusal → Host.Outcome State Fault Refusal
  | .next s => .next (f s)
  | .fault r => .fault r
  | .refused r => .refused r

/-- The engine's operation does not look at the host access, but at rest for a `START`: without the access it answers
the same next state, or the same fault (R54, R82). -/
theorem exec_withoutAccess {q : Sequencer} {s : State} (h : q = .idle ∨ q = .done → startNow s.ports = false) :
    exec (engineOp q) s.withoutAccess = mapNext State.withoutAccess (exec (engineOp q) s) := by
  have branch {c : Prop} [Decidable c] (a b : State) : (.next (if c then a.withoutAccess else b.withoutAccess)) =
      mapNext State.withoutAccess (.next (if c then a else b)) :=
    congrArg _ (apply_ite State.withoutAccess c a b).symm
  have at_rest (hq : q = .idle ∨ q = .done) :
      exec (engineOp q) s.withoutAccess = mapNext State.withoutAccess (exec (engineOp q) s) := by
    rw [exec_of_engineStep q s s (.rest hq (h hq))]
    exact exec_of_engineStep q _ _ (.rest hq (by rw [← Bool.not_eq_true, startNow_iff]; simp [State.withoutAccess]))
  cases q with
  | idle => exact at_rest (.inl rfl)
  | done => exact at_rest (.inr rfl)
  | poll => exact congrArg _ (polled_withoutAccess s)
  | shift =>
    rcases execShift_cases s with ⟨hn, d, hd, e⟩ | ⟨hn, hd, e⟩ | ⟨hn, e⟩
    · exact (exec_of_engineStep _ _ _ (.shift (s := s.withoutAccess) hn d hd)).trans (by
        rw [assembleBit_withoutAccess]; exact congrArg (mapNext _) e.symm)
    · exact (execShift_of_no_entry (s := s.withoutAccess) hn hd).trans (congrArg (mapNext _) e.symm)
    · exact ((shiftStopsAtWhatDoesNotExist s.withoutAccess).1 hn).trans (congrArg (mapNext _) e.symm)
  | hold => exact branch (s.goto .relIn) s
  | chkCnt => exact branch (s.raise .invalidNumberOfPulses) (s.goto .skip)
  | chkSum =>
    exact branch (c := checksum s.b0 s.b1 s.b2 s.b3 ≠ s.b4)
      ({ s with sum := checksum s.b0 s.b1 s.b2 s.b3 }.raise .invalidChecksum)
      ({ s with sum := checksum s.b0 s.b1 s.b2 s.b3 }.goto .conv)
  | drvOut | drvLow | relIn | skip | conv => rfl

/-- No operation is refused: each has its meaning. -/
theorem exec_ne_refused (i : Instr) (s : State) (r : Refusal) : exec i s ≠ .refused r := by
  intro h
  by_cases hi : i = .shift
  · subst hi
    rcases execShift_cases s with ⟨_, d, -, e⟩ | ⟨-, -, e⟩ | ⟨-, e⟩ <;> cases e.symm.trans h
  · obtain ⟨t, e⟩ := exec_next_of_ne_shift i s hi
    cases e.symm.trans h

/-- A step without reset and with an inert access is the engine's operation; `h_rdata` shows what the access reads. -/
theorem step_of_inertAccess {s : State} {p : Ports} (hr : p.rst = false) (h : inertAccess s p) :
    ∃ r, step (s.withNextPorts p) = exec (engineOp s.seq) { (s.withNextPorts p).sample with hRdata := r } := by
  rcases step_cases (s.withNextPorts p) hr with ⟨-, r, e, -⟩ | ⟨hs, hq, -⟩
  · exact ⟨r, e⟩
  · cases hs.symm.trans (startNow_of_inertAccess h hq)

/-- Settles O8: the step with the access is the engine's operation on the sampled state, the step without it the
same operation on `State.withoutAccess` of that state. -/
theorem inertAccessLeavesNoTrace : Obligations.InertAccessLeavesNoTrace := by
  intro s p hr h
  obtain ⟨r, accessed⟩ := step_of_inertAccess hr h
  have alone : step (s.withNextPorts { p with hValid := false }) =
      mapNext State.withoutAccess (step (s.withNextPorts p)) := by
    rw [accessed, ← exec_withoutAccess (startNow_of_inertAccess h)]
    exact step_alone (s.withNextPorts { p with hValid := false }) hr (hostOp_of_not_valid rfl)
  cases hstep : step (s.withNextPorts p) with
  | next t => exact .inl ⟨t, t.withoutAccess, rfl, alone.trans (congrArg _ hstep), rfl⟩
  | fault r => exact .inr ⟨r, rfl, alone.trans (congrArg _ hstep)⟩
  | refused r => exact absurd (accessed.symm.trans hstep) (exec_ne_refused _ _ r)

/-! ## The results -/

/-- The writers of `TEMP` and `HUM`: `CONV`, which ends the read, and the beginning of a read (R24, R25, R133). -/
theorem engineStep_results (s t : State) (q : Sequencer) (h : EngineStep s q t)
    (ht : t.temp ≠ s.temp ∨ t.hum ≠ s.hum) :
    (q = .conv ∧ t.seq = .done) ∨ (t.seq = .drvOut ∧ t.temp = 0 ∧ t.hum = 0) := by
  have unwritten {P : Prop} {u : State} (htemp : u.temp = s.temp) (hhum : u.hum = s.hum)
      (hu : u.temp ≠ s.temp ∨ u.hum ≠ s.hum) : P := (hu.elim (· htemp) (· hhum)).elim
  cases h with
  | start => exact .inr ⟨rfl, rfl, rfl⟩
  | conv => exact .inl ⟨rfl, rfl⟩
  | poll => rw [polled_frame] at ht; exact unwritten rfl rfl ht
  | shift => rw [assembleBit_eq, setFrameByte_frame] at ht; exact unwritten rfl rfl ht
  | _ => exact unwritten rfl rfl ht

/-- Settles O45: the step begins a read, or it is the engine's operation, whose writers are those of
`engineStep_results`. -/
theorem resultsArePublishedWithDone : Obligations.ResultsArePublishedWithDone := by
  intro s t hr h ht
  rcases step_next_cases_of_no_reset s t hr h with ⟨-, rfl⟩ | ⟨r, h⟩
  · exact .inr ⟨rfl, rfl, rfl⟩
  · exact engineStep_results _ _ _ h ht

/-! ## Rest -/

theorem sameRegisters_trans {s t u : State} (h : sameRegisters s t) (h' : sameRegisters t u) : sameRegisters s u := by
  unfold sameRegisters at h h' ⊢
  rw [h', h]

theorem seq_of_sameRegisters {s t : State} (h : sameRegisters s t) : t.seq = s.seq := by
  rw [h]

/-- Without `START` a step at rest changes no register (R52, R88). -/
theorem step_at_rest {s : State} (hq : s.seq = .idle ∨ s.seq = .done) (hr : s.nextPorts.rst = false)
    (hs : startNow s.nextPorts = false) : ∃ t, step s = .next t ∧ sameRegisters s t := by
  rcases step_cases s hr with ⟨-, r, e, -⟩ | ⟨hs', -⟩
  · exact ⟨_, e.trans (exec_of_engineStep _ _ _ (.rest hq hs)), rfl⟩
  · cases hs'.symm.trans hs

/-- Settles O46, by induction on the number of steps: each is that of `step_at_rest`, which keeps `STATE`. -/
theorem restKeepsEveryRegister : Obligations.RestKeepsEveryRegister := by
  intro n
  induction n with
  | zero => exact fun s _ _ => ⟨s, rfl, rfl⟩
  | succ n ih =>
    intro s hq hp
    obtain ⟨hr, hs⟩ := hp 0 (Nat.succ_pos n)
    rw [portsAt_zero] at hr hs
    obtain ⟨u, hstep, hsu⟩ := step_at_rest hq hr hs
    have hqu : u.seq = s.seq := seq_of_sameRegisters hsu
    obtain ⟨t, hrun, hut⟩ := ih u (hqu ▸ hq) fun k hk => portsAt_step s u hstep k ▸ hp (k + 1) (by omega)
    exact ⟨t, (run_succ n s u hstep).trans hrun, sameRegisters_trans hsu hut⟩

end Sys2Proof.Machine
end

section
/-! PROOFS, part 8. Reads at rest and the read transaction: what `READ` and the debug reads after it leave
(R46, R74, R85, R86). -/

namespace Sys2Proof.Machine

/-! ## One read by the host -/

/-- A read by the host shows the word of the state before the step (R48, R83). -/
theorem hostStep_read_word {a : BitVec 8} {r t : HostRun} (h : hostStep (.read a) r = some t) :
    t.state.hRdata = some (r.state.regRead a) := by
  obtain ⟨e, u, -, hstep, rfl, -⟩ := (hostStep_eq_some _ _ _).mp h
  exact readReturnsThePreStepWord _ _ rfl rfl hstep

/-- At rest a read by the host changes no register (R48, R52). -/
theorem hostStep_read_at_rest {a : BitVec 8} {r t : HostRun} (hq : r.state.seq = .done)
    (h : hostStep (.read a) r = some t) : sameRegisters r.state t.state := by
  obtain ⟨e, u, -, hstep, rfl, -⟩ := (hostStep_eq_some _ _ _).mp h
  obtain ⟨u', hstep', hsame⟩ := step_at_rest (s := r.state.withNextPorts ((HostAccess.read a).toPorts e)) (.inr hq) rfl
    (startNow_of_not_write rfl)
  cases hstep.symm.trans hstep'
  exact sameRegisters_trans (t := r.state.withNextPorts ((HostAccess.read a).toPorts e)) rfl hsame

/-- A word read at rest is that of its address, and no register changes. -/
theorem readWord_at_rest {a : BitVec 8} {r t : HostRun} {w : Word} (hq : r.state.seq = .done)
    (h : readWord a r = some (w, t)) : w = r.state.regRead a ∧ sameRegisters r.state t.state := by
  obtain ⟨hstep, hw⟩ := (readWord_eq_some _ _ _ _).mp h
  exact ⟨Option.some.inj (hw.symm.trans (hostStep_read_word hstep)), hostStep_read_at_rest hq hstep⟩

/-- Any number of reads at rest change no register. -/
theorem hostSteps_reads_at_rest (as : List (BitVec 8)) {r t : HostRun} (hq : r.state.seq = .done)
    (h : hostSteps (as.map .read) r = some t) : sameRegisters r.state t.state := by
  induction as generalizing r with
  | nil =>
    cases h
    rfl
  | cons a as ih =>
    obtain ⟨u, hu, h⟩ := Option.bind_eq_some_iff.mp h
    have hsame := hostStep_read_at_rest hq hu
    exact sameRegisters_trans hsame (ih ((seq_of_sameRegisters hsame).trans hq) h)

/-! ## The wait loop and the result -/

/-- The wait loop ends in `DONE`, and its value is the `STATUS` of that state (R74, R85). -/
theorem waitDone_ends_done {n : Nat} {r t : HostRun} {s : Word} (h : waitDone n r = some (s, t)) :
    t.state.seq = .done ∧ s = t.state.statusWord := by
  induction n generalizing r with
  | zero => cases h
  | succ n ih =>
    obtain ⟨⟨w, u⟩, hread, ⟨hbit, heq⟩ | ⟨-, h⟩⟩ := (waitDone_succ_eq_some n r _).mp h
    · cases heq
      obtain ⟨hstep, hw⟩ := (readWord_eq_some _ _ _ _).mp hread
      have hs : s = r.state.statusWord := Option.some.inj (hw.symm.trans (hostStep_read_word hstep))
      obtain ⟨-, done_bit, -⟩ := statusWord_flags r.state
      have hq : r.state.seq = .done := decide_eq_true_iff.mp (done_bit.symm.trans (hs ▸ hbit))
      have hsame := hostStep_read_at_rest hq hstep
      exact ⟨(seq_of_sameRegisters hsame).trans hq, hs.trans (regRead_congr _ _ hsame 0x01).symm⟩
    · exact ih h

/-- Bits 5:4 of `STATUS`, as the transaction takes them, are the code of `ERR` (R44, R85). -/
theorem statusWord_errField (s : State) : (s.statusWord.extractLsb' 4 2).toNat = s.err.code.toNat := by
  rw [BitVec.extractLsb'_toNat, Nat.shiftRight_eq_div_pow]
  exact status_errBits s

/-- The observable result of a read is read off registers only (R86). -/
theorem readResult_of_sameRegisters {s t : State} (h : sameRegisters s t) : t.readResult = s.readResult := by
  rw [h]
  rfl

/-- From `DONE`, with its `STATUS`, the end of the transaction gives the observable result and changes no register. -/
theorem finishRead_at_done {r t : HostRun} {x : ReadResult} (hq : r.state.seq = .done)
    (h : finishRead r.state.statusWord r = some (x, t)) :
    sameRegisters r.state t.state ∧ r.state.readResult = some x := by
  unfold finishRead at h
  unfold State.readResult
  rw [statusWord_errField] at h
  rw [if_pos hq]
  cases he : r.state.err <;> rw [he] at h
  case noError =>
    obtain ⟨⟨temp, r1⟩, htemp, h⟩ := Option.bind_eq_some_iff.mp h
    obtain ⟨⟨hum, r2⟩, hhum, h⟩ := Option.map_eq_some_iff.mp h
    cases h
    obtain ⟨rfl, hsame1⟩ := readWord_at_rest hq htemp
    obtain ⟨rfl, hsame2⟩ := readWord_at_rest ((seq_of_sameRegisters hsame1).trans hq) hhum
    rw [regRead_congr _ _ hsame1]
    exact ⟨sameRegisters_trans hsame1 hsame2, rfl⟩
  case invalidNumberOfPulses | invalidChecksum =>
    cases h
    exact ⟨rfl, rfl⟩

/-- `READ` ends in `DONE` and returns the observable result of that state (R85, R86). -/
theorem runRead_final {r t : HostRun} {x : ReadResult} (h : runRead r = some (x, t)) :
    t.state.seq = .done ∧ t.state.readResult = some x := by
  obtain ⟨r1, s, r2, -, hwait, hfinish⟩ := (runRead_eq_some r t x).mp h
  obtain ⟨hq, rfl⟩ := waitDone_ends_done hwait
  obtain ⟨hsame, hresult⟩ := finishRead_at_done hq hfinish
  exact ⟨(seq_of_sameRegisters hsame).trans hq, (readResult_of_sameRegisters hsame).trans hresult⟩

/-- The line `READ` ends in `DONE` (R74). -/
theorem runReadLine_final {r t : HostRun} (h : runReadLine r = some t) : t.state.seq = .done := by
  obtain ⟨r1, -, h⟩ := Option.bind_eq_some_iff.mp h
  obtain ⟨⟨s, r2⟩, hwait, h⟩ := Option.bind_eq_some_iff.mp h
  obtain ⟨hq, -⟩ := waitDone_ends_done hwait
  exact (seq_of_sameRegisters (hostSteps_reads_at_rest [0x01, 0x03, 0x04] hq h)).trans hq

/-- Settles O60: `READ` and its line end in `DONE`, and there the debug window is read without a change. -/
theorem debugReadsKeepTheResult : Obligations.DebugReadsKeepTheResult := by
  refine ⟨fun r u x h => ?_, fun r u h => ?_⟩
  · obtain ⟨⟨x', t⟩, hread, h⟩ := Option.bind_eq_some_iff.mp h
    obtain ⟨u', hdebug, h⟩ := Option.map_eq_some_iff.mp h
    cases h
    obtain ⟨hq, hresult⟩ := runRead_final hread
    have hsame := hostSteps_reads_at_rest _ hq hdebug
    exact ⟨t, hread, hsame, (readResult_of_sameRegisters hsame).trans hresult⟩
  · obtain ⟨t, hread, hdebug⟩ := Option.bind_eq_some_iff.mp h
    have hsame := hostSteps_reads_at_rest _ (runReadLine_final hread) hdebug
    exact ⟨t, hread, hsame, readResult_of_sameRegisters hsame⟩

end Sys2Proof.Machine
end

section
/-! PROOFS, part 9. The decoder on every word of each format and on the opcode table's numbers (R60 to R62, R69 to
R72), and what the line `READ` shows (R74, R86). -/

namespace Sys2Proof.Machine

/-! ## Format `H` (R72) -/

/-- The host access word as a number: each port's value at its bit place. -/
theorem hostAccessWord_toNat (valid write : Bool) (a : BitVec 8) (v : Word) :
    (hostAccessWord valid write a v).toNat =
      valid.toNat * 2 ^ 41 + write.toNat * 2 ^ 40 + a.toNat * 2 ^ 32 + v.toNat := by
  unfold hostAccessWord
  rw [show (BitVec.ofBool valid ++ BitVec.ofBool write ++ a ++ v : BitVec 42).toNat = _ from toNat_append_sum _ _,
    show (BitVec.ofBool valid ++ BitVec.ofBool write ++ a : BitVec 10).toNat = _ from toNat_append_sum _ _,
    show (BitVec.ofBool valid ++ BitVec.ofBool write : BitVec 2).toNat = _ from toNat_append_sum _ _,
    BitVec.toNat_ofBool, BitVec.toNat_ofBool]
  omega

/-- The decoder reads the ports back from their host access word. -/
theorem decode_hostAccessWord (valid write : Bool) (a : BitVec 8) (v : Word) :
    decode (.hostAccess (hostAccessWord valid write a v)) =
      if valid = true then (if write = true then .ok (.wr a v) else .ok (.rd a)) else .error .noHostAccess := by
  simp only [decode, decodeHostAccess, hostAccessWord_valid, hostAccessWord_write, hostAccessWord_addr,
    hostAccessWord_wdata]

/-- Settles O1: the number is that of the host access word, which is decoded by its fields. -/
theorem hostAccessWordIsReadByItsFields : Obligations.HostAccessWordIsReadByItsFields := by
  refine ⟨fun valid write a v => ?_, rfl, rfl⟩
  rw [← hostAccessWord_toNat, BitVec.ofNat_toNat, BitVec.setWidth_eq]
  exact decode_hostAccessWord valid write a v

/-! ## Format `C` (R61) -/

/-- The decoder of a command by its number: odd is `START`, even is `NOP`. -/
theorem decodeCommand_eq (w : Word) : decodeCommand w = if w.toNat % 2 = 1 then .start else .nop := by
  simp only [decodeCommand, BitVec.getLsbD, Nat.testBit_zero, decide_eq_true_eq]

/-- Settles O2: `b` is the number's remainder by 2. -/
theorem commandWordBitZeroDecides : Obligations.CommandWordBitZeroDecides := by
  intro r b hr hb
  have parity : (BitVec.ofNat 32 (2 * r + b)).toNat % 2 = b := by
    rw [BitVec.toNat_ofNat]
    omega
  rw [decode, decodeCommand_eq, parity]

/-! ## Format `S` (R62, R70) -/

/-- The `STATE` values in the order of R62. -/
def sequencerValues : List Sequencer :=
  [.idle, .drvOut, .drvLow, .hold, .relIn, .poll, .chkCnt, .skip, .shift, .chkSum, .conv, .done]

theorem mem_sequencerValues (q : Sequencer) : q ∈ sequencerValues := by
  cases q <;> decide

/-- The row of R62 for a `STATE` value. -/
def sequencerRow (q : Sequencer) : Nat × Sequencer × Instr := (q.code.toNat, q, engineOp q)

/-- The number of a code decodes to the operation of its `STATE` value. -/
theorem decode_sequencer_number (q : Sequencer) :
    decode (.sequencer (BitVec.ofNat 4 q.code.toNat)) = .ok (engineOp q) := by
  rw [BitVec.ofNat_toNat, BitVec.setWidth_eq, decode_sequencer_code]

/-- The codes from 12 on have no `STATE` value (R70). -/
theorem sequencerOfCode_reserved {c : BitVec 4} (h : 12 ≤ c.toNat) :
    sequencerOfCode c = .error .reservedSequencerCode := by
  unfold sequencerOfCode
  split
  case h_13 => rfl
  all_goals omega

theorem decode_sequencer_reserved {c : BitVec 4} (h : 12 ≤ c.toNat) :
    decode (.sequencer c) = .error .reservedSequencerCode :=
  congrArg (Except.map engineOp) (sequencerOfCode_reserved h)

/-- Settles O3: the table written out is `sequencerRow` of each `STATE` value. -/
theorem sequencerCodesSelectOperations : Obligations.SequencerCodesSelectOperations := by
  show (∀ r ∈ sequencerValues.map sequencerRow, _) ∧ (∀ q, (∃ r ∈ sequencerValues.map sequencerRow, _) ∧ _) ∧ _
  refine ⟨List.forall_mem_map.mpr fun q _ => ⟨rfl, decode_sequencer_number q, rfl⟩, fun q => ⟨?_, ?_⟩,
    fun _ => decode_sequencer_reserved⟩
  · exact ⟨sequencerRow q, List.mem_map_of_mem (mem_sequencerValues q), rfl⟩
  · exact decode_sequencer_code q

/-! ## The opcode table's numbers -/

/-- A word of any format is read back from the table's number for it. -/
theorem opWordOfNumber_numberOfOpWord (word : OpWord) :
    opWordOfNumber (numberOfOpWord word).1 (numberOfOpWord word).2 = .ok word := by
  cases word with
  | hostAccess w => exact Laws.EncodeDecode.opWordOfNumber_hostAccess w
  | command w => simp [opWordOfNumber, numberOfOpWord, w.isLt]
  | sequencer w => simp [opWordOfNumber, numberOfOpWord, w.isLt]
  | resetPort w => simp [opWordOfNumber, numberOfOpWord, w.isLt]

/-- The table's number of a word decodes as the word does. -/
theorem decodeTableWord_numberOfOpWord (word : OpWord) :
    decodeTableWord (numberOfOpWord word).1 (numberOfOpWord word).2 = (decode word).toOption := by
  rw [decodeTableWord, opWordOfNumber_numberOfOpWord]

/-- Where a word decodes, its number decodes to the same operation. -/
theorem decodeTableWord_of_decode {word : OpWord} {i : Instr} (h : decode word = .ok i) :
    decodeTableWord (numberOfOpWord word).1 (numberOfOpWord word).2 = some i := by
  rw [decodeTableWord_numberOfOpWord, h]
  rfl

/-- Settles O4, operation by operation. -/
theorem decodeOfEncodeIsTheOperation : Obligations.DecodeOfEncodeIsTheOperation := by
  intro i
  cases i with
  | rd a => exact Laws.EncodeDecode.rd a
  | wr a v => exact Laws.EncodeDecode.wr a v
  | nop => exact Laws.EncodeDecode.nop
  | start => exact Laws.EncodeDecode.start
  | idle => exact Laws.EncodeDecode.idle
  | drvOut => exact Laws.EncodeDecode.drvOut
  | drvLow => exact Laws.EncodeDecode.drvLow
  | hold => exact Laws.EncodeDecode.hold
  | relIn => exact Laws.EncodeDecode.relIn
  | poll => exact Laws.EncodeDecode.poll
  | chkCnt => exact Laws.EncodeDecode.chkCnt
  | skip => exact Laws.EncodeDecode.skip
  | shift => exact Laws.EncodeDecode.shift
  | chkSum => exact Laws.EncodeDecode.chkSum
  | conv => exact Laws.EncodeDecode.conv
  | done => exact Laws.EncodeDecode.done
  | reset => exact Laws.EncodeDecode.reset

/-- Settles O5: each number is that of a word of its format, decoded by its fields, its bit 0 or its code. -/
theorem tableWordsDecode : Obligations.TableWordsDecode := by
  obtain ⟨host_word, -⟩ := hostAccessWordIsReadByItsFields
  refine ⟨?_, ?_, ?_, ?_, ?_, ?_⟩
  · exact decodeTableWord_of_decode (host_word true false 0x03 0)
  · exact decodeTableWord_of_decode (host_word true true 0x03 0x12345678)
  · exact decodeTableWord_of_decode (commandWordBitZeroDecides 0x40000001 1 (by decide) (by decide))
  · exact decodeTableWord_of_decode (commandWordBitZeroDecides 0x7FFFFFFF 0 (by decide) (by decide))
  · exact decodeTableWord_of_decode (decode_sequencer_number .poll)
  · have reserved : decode (.sequencer 0xC) = .error .reservedSequencerCode := decode_sequencer_reserved (by decide)
    exact (decodeTableWord_numberOfOpWord (.sequencer 0xC)).trans (congrArg Except.toOption reserved)

/-! ## The step from a state that keeps the invariant -/

/-- Settles O40: under the invariant `SHIFT` finds its byte and its entry, and no other operation can stop. -/
theorem invariantStepAnswersNext : Obligations.InvariantStepAnswersNext := fun _ h => h.step_answers

/-! ## The line `READ` of a script (R74) -/

/-- A read by the host appends the word of the state before the step (R48, R83). -/
theorem hostStep_read_words {a : BitVec 8} {r t : HostRun} (h : hostStep (.read a) r = some t) :
    t.words = r.words ++ [r.state.regRead a] := by
  have shown := hostStep_read_word h
  obtain ⟨e, u, -, -, rfl, hwords⟩ := (hostStep_eq_some _ _ _).mp h
  rw [hwords, shown, Option.toList_some]

/-- Reads at rest append the words of their addresses, all of the one state (R48, R52). -/
theorem hostSteps_reads_words (as : List (BitVec 8)) {r t : HostRun} (hq : r.state.seq = .done)
    (h : hostSteps (as.map .read) r = some t) : t.words = r.words ++ as.map r.state.regRead := by
  induction as generalizing r with
  | nil =>
    cases h
    exact (List.append_nil _).symm
  | cons a as ih =>
    obtain ⟨u, hu, h⟩ := Option.bind_eq_some_iff.mp h
    have hsame := hostStep_read_at_rest hq hu
    rw [ih ((seq_of_sameRegisters hsame).trans hq) h, hostStep_read_words hu, List.append_assoc,
      funext (regRead_congr _ _ hsame)]
    rfl

/-- In `DONE` the words of `STATUS`, `TEMP` and `HUM` stand for the observable result (R86). -/
theorem resultOfWords_at_done {s : State} (hq : s.seq = .done) :
    resultOfWords s.statusWord s.temp s.hum = s.readResult := by
  unfold resultOfWords State.readResult
  rw [statusWord_errField, if_pos hq]
  cases s.err <;> rfl

/-- In `DONE` there is an observable result (R86). -/
theorem readResult_ne_none {s : State} (hq : s.seq = .done) : s.readResult ≠ none := by
  unfold State.readResult
  rw [if_pos hq]
  cases s.err <;> exact Option.some_ne_none _

/-- Settles O59: the wait loop ends in `DONE`, and the three reads after it show that state and keep it. -/
theorem readLineShowsTheFinalResult : Obligations.ReadLineShowsTheFinalResult := by
  intro r r' h
  obtain ⟨r1, -, h⟩ := Option.bind_eq_some_iff.mp h
  obtain ⟨⟨s, r2⟩, hwait, hreads⟩ := Option.bind_eq_some_iff.mp h
  obtain ⟨hq, -⟩ := waitDone_ends_done hwait
  have hsame := hostSteps_reads_at_rest [0x01, 0x03, 0x04] hq hreads
  rw [readResult_of_sameRegisters hsame]
  exact ⟨(seq_of_sameRegisters hsame).trans hq, r2.words, r2.state.statusWord, r2.state.temp, r2.state.hum,
    hostSteps_reads_words [0x01, 0x03, 0x04] hq hreads, resultOfWords_at_done hq, readResult_ne_none hq⟩

end Sys2Proof.Machine
end

section
/-! PROOFS, part 10. The host operations and rest by their cases, what a `START` forgets, and the two ends of the read
transaction: its `START` and the reads of its result (R61, R81 to R88). -/

namespace Sys2Proof.Machine

/-! ## Reads (R83) -/

/-- Past the end of a window, up to the next one or the end of the map, every address shows 0 (R42, R47). -/
theorem regRead_past_windows (s : State) {a : BitVec 8}
    (h : (0x40 + s.cap ≤ a.toNat ∧ a.toNat ≤ 0x7F) ∨ 0x80 + s.cap ≤ a.toNat) : s.regRead a = 0 := by
  have addr_eq {n i : Nat} (hi : a.toNat = n + i) : a = BitVec.ofNat 8 (n + i) := by
    rw [← hi, BitVec.ofNat_toNat, BitVec.setWidth_eq]
  rcases h with ⟨hlow, hend⟩ | hhigh
  · obtain ⟨i, hi⟩ := Nat.exists_eq_add_of_le (show 0x40 ≤ a.toNat by omega)
    rw [addr_eq hi]
    exact (regRead_windows_of_cap_le s (by omega) (by omega)).1
  · by_cases hend : 0xC0 ≤ a.toNat
    · exact regRead_reserved s (.inr hend)
    · obtain ⟨i, hi⟩ := Nat.exists_eq_add_of_le (show 0x80 ≤ a.toNat by omega)
      rw [addr_eq hi]
      exact (regRead_windows_of_cap_le s (by omega) (by omega)).2

/-- Settles O13: the addresses without a register are `CMD`, the reserved ones and those past the windows. -/
theorem rdAnswersTheWord : Obligations.RdAnswersTheWord := by
  refine fun s a => ⟨rfl, fun h => ?_⟩
  rcases h with rfl | h | h | h | h
  · rfl
  · exact regRead_reserved s (.inl h)
  · exact regRead_past_windows s (.inl h)
  · exact regRead_past_windows s (.inr h)
  · exact regRead_reserved s (.inr h)

/-! ## Writes and commands (R81, R82, R84) -/

/-- Bit 0 of a command word is its remainder by 2 (R61). -/
theorem getLsbD_zero_iff (v : Word) : v.getLsbD 0 = true ↔ v.toNat % 2 = 1 := by
  rw [BitVec.getLsbD, Nat.testBit_zero, decide_eq_true_eq]

/-- Settles O14, by the three cases of the pseudocode of R84. -/
theorem wrIsACommandAtZeroOnly : Obligations.WrIsACommandAtZeroOnly := by
  intro s a v
  by_cases ha : a = 0
  · rw [if_pos ha]
    by_cases hv : v.toNat % 2 = 1
    · rw [if_pos hv]
      exact congrArg _ (if_pos ⟨ha, (getLsbD_zero_iff v).mpr hv⟩)
    · rw [if_neg hv]
      exact congrArg _ (if_neg fun h => hv ((getLsbD_zero_iff v).mp h.2))
  · rw [if_neg ha]
    exact exec_wr_ignored s a v ha

theorem busy_eq_false_iff (s : State) : s.busy = false ↔ s.seq = .idle ∨ s.seq = .done := by
  unfold State.busy
  rw [decide_eq_false_iff_not]
  tauto

/-- `START` at rest begins a read (R82). -/
theorem exec_start_at_rest {s : State} (hq : s.seq = .idle ∨ s.seq = .done) : exec .start s = .next s.beginRead := by
  rcases acceptStart_cases s with ⟨-, e⟩ | ⟨not_idle, not_done, -⟩
  · exact congrArg _ e
  · exact (hq.elim not_idle not_done).elim

/-- `START` while busy is ignored (R82). -/
theorem exec_start_busy {s : State} (hb : s.busy = true) : exec .start s = .next s := by
  rcases acceptStart_cases s with ⟨hq, -⟩ | ⟨-, -, e⟩
  · rw [(busy_eq_false_iff s).mpr hq] at hb
    cases hb
  · exact congrArg _ e

/-- Settles O15: a write is the command of `wrIsACommandAtZeroOnly`, and `START` is accepted at rest only. -/
theorem wrAndNopComplete : Obligations.WrAndNopComplete := by
  refine fun s a v => ⟨rfl, fun h => ?_, fun ha hv hb => ?_⟩ <;> rw [wrIsACommandAtZeroOnly]
  · by_cases ha : a = 0
    · rw [if_pos ha]
      by_cases hv : v.toNat % 2 = 1
      · rw [if_pos hv]
        rcases h with h | h | hb
        · exact absurd ha h
        · omega
        · exact exec_start_busy hb
      · exact if_neg hv
    · exact if_neg ha
  · rw [if_pos ha, if_pos hv]
    exact exec_start_at_rest ((busy_eq_false_iff s).mp hb)

/-- `STATE` and the line show in `STATUS` and `DBG` only, the model's own fields in no word (R42). -/
theorem regRead_setSeqAndLine (s : State) (q : Sequencer) (dir dout : Bool) (p : Ports) (r : Option Word)
    (inputs : List Ports) (k : Nat) {a : BitVec 8} (status : a ≠ 0x01) (dbg : a ≠ 0x09) :
    { s with seq := q, dir := dir, dout := dout, ports := p, hRdata := r, env := inputs, tick := k }.regRead a =
      s.regRead a := by
  rcases Nat.lt_or_ge a.toNat 0x0C with h | h
  · have hm := addr_below_0C a h
    simp only [List.mem_cons, List.not_mem_nil, or_false, status, dbg, false_or] at hm
    rcases hm with rfl | rfl | rfl | rfl | rfl | rfl | rfl | rfl | rfl | rfl <;> rfl
  · rw [regRead_from_0C _ _ h, regRead_from_0C _ _ h]
    rfl

/-- Where a read begins every word but `STATUS`, `VARIANT` and `DBG` is that of the state after reset: 0 (R82). -/
theorem regRead_beginRead (s : State) {a : BitVec 8} (status : a ≠ 0x01) (variant : a ≠ 0x02) (dbg : a ≠ 0x09) :
    s.beginRead.regRead a = 0 := by
  have cleared : s.beginRead = { State.afterReset s.params s.variant with
      seq := .drvOut, dir := s.dir, dout := s.dout, ports := s.ports, hRdata := s.hRdata, env := s.env,
      tick := s.tick } := rfl
  rw [cleared, regRead_setSeqAndLine _ _ _ _ _ _ _ _ status dbg, regRead_afterReset, if_neg fun h => variant h.1]

/-- Settles O16: at rest the state is `State.beginRead`, and its words are those of `regRead_beginRead`. -/
theorem startClearsTheReadAtRest : Obligations.StartClearsTheReadAtRest := by
  refine fun s => ⟨fun hq => ⟨exec_start_at_rest hq, fun t h => ?_⟩, fun not_idle not_done => ?_, fun v hv => ?_⟩
  · cases (exec_start_at_rest hq).symm.trans h
    exact ⟨statusWord_eq rfl rfl, fun a => regRead_beginRead s⟩
  · exact exec_start_busy (decide_eq_true ⟨not_idle, not_done⟩)
  · rw [wrIsACommandAtZeroOnly, if_pos rfl, if_pos hv]

/-! ## Rest (R88) -/

/-- Settles O17: both operations are `State.restStep`, which asks for the ports of a `START`. -/
theorem restAcceptsStartElseNothing : Obligations.RestAcceptsStartElseNothing := by
  intro s i hi
  have rest_eq : exec i s = .next s.restStep := by rcases hi with rfl | rfl <;> rfl
  rw [rest_eq]
  refine ⟨fun hv hw ha hb => ?_, fun h => ?_⟩ <;> rcases restStep_cases s with ⟨hs, e⟩ | ⟨hs, e⟩ <;> rw [e]
  · rw [(startNow_iff _).mpr ⟨hv, hw, ha, (getLsbD_zero_iff _).mpr hb⟩] at hs
    cases hs
  · obtain ⟨hv, hw, ha, hb⟩ := (startNow_iff _).mp hs
    rw [getLsbD_zero_iff] at hb
    rcases h with h | h | h | h
    · cases hv.symm.trans h
    · cases hw.symm.trans h
    · exact absurd ha h
    · omega

/-- A step with a `START` at rest begins a read (R82, R88). -/
theorem step_start {s : State} (hq : s.seq = .idle ∨ s.seq = .done) (hr : s.nextPorts.rst = false)
    (hs : startNow s.nextPorts = true) : step s = .next s.sample.beginRead := by
  rcases step_cases s hr with ⟨no_start, -⟩ | ⟨-, -, e⟩
  · exact absurd ⟨hs, hq⟩ no_start
  · exact e

/-- The registers where a read begins are `VARIANT`, the line and the parameters of the state before, all else 0. -/
theorem sameRegisters_beginRead {s u : State} (variant : s.variant = u.variant) (dir : s.dir = u.dir)
    (dout : s.dout = u.dout) (params : s.params = u.params) : sameRegisters s.beginRead u.beginRead := by
  unfold sameRegisters State.beginRead
  rw [variant, dir, dout, params]

/-- At rest the line is released and low (R14, R15). -/
theorem Inv.line_at_rest {s : State} (h : Inv s) (hq : s.seq = .idle ∨ s.seq = .done) :
    s.dir = false ∧ s.dout = false := by
  refine ⟨h.dir_phase.trans ?_, h.line_low⟩
  rcases hq with hq | hq <;> rw [hq] <;> rfl

/-- Settles O56: both steps begin a read, and the invariant gives both states the same line. -/
theorem startForgetsTheLastRead : Obligations.StartForgetsTheLastRead := by
  intro s u hinv_s hinv_u hqs hqu variant params ports hr hs
  obtain ⟨dir_s, dout_s⟩ := hinv_s.line_at_rest hqs
  obtain ⟨dir_u, dout_u⟩ := hinv_u.line_at_rest hqu
  exact ⟨_, _, step_start hqs hr hs, step_start hqu (ports ▸ hr) (ports ▸ hs),
    sameRegisters_beginRead variant (dir_s.trans dir_u.symm) (dout_s.trans dout_u.symm) params, rfl⟩

/-! ## The read transaction (R85) -/

/-- Settles O57: `runRead_final` gives the result, and the first step is `step_start`. -/
theorem readReturnsTheFinalResult : Obligations.ReadReturnsTheFinalResult := by
  intro r t x h
  obtain ⟨hq, hresult⟩ := runRead_final h
  refine ⟨hq, hresult, fun hb => ?_⟩
  obtain ⟨r1, -, -, hstart, -⟩ := (runRead_eq_some r t x).mp h
  obtain ⟨e, u, -, hstep, rfl, -⟩ := (hostStep_eq_some _ _ _).mp hstart
  have begun := step_start (s := r.state.withNextPorts ((HostAccess.write 0x00 1).toPorts e))
    ((busy_eq_false_iff r.state).mp hb) rfl ((startNow_iff _).mpr ⟨rfl, rfl, rfl, (getLsbD_zero_iff 1).mpr rfl⟩)
  refine ⟨r1, hstart, ?_⟩
  rw [Host.Outcome.next.inj (hstep.symm.trans begun)]
  rfl

/-- A read by the host takes one step, which shows its word (R74, R83). -/
theorem readWord_takes_one_step {a : BitVec 8} {r t : HostRun} {w : Word} (h : readWord a r = some (w, t)) :
    t.words = r.words ++ [w] ∧ r.rest.length = t.rest.length + 1 := by
  obtain ⟨hstep, hw⟩ := (readWord_eq_some _ _ _ _).mp h
  obtain ⟨e, u, hrest, -, rfl, hwords⟩ := (hostStep_eq_some _ _ _).mp hstep
  rw [hwords, hrest, hw]
  exact ⟨rfl, rfl⟩

/-- The error field of a status word as a number (R44). -/
theorem errField_toNat (s : Word) : (s.extractLsb' 4 2).toNat = s.toNat / 16 % 4 := by
  rw [BitVec.extractLsb'_toNat, Nat.shiftRight_eq_div_pow]

/-- Settles O58, by the value of the status' error field. -/
theorem readReadsTheResultOnSuccessOnly : Obligations.ReadReadsTheResultOnSuccessOnly := by
  intro r t s x h
  rw [finishRead, errField_toNat] at h
  refine ⟨fun hs => ?_, fun hs => ?_, fun hs => ?_⟩ <;> rw [hs] at h
  · obtain ⟨⟨temp, r1⟩, htemp, h⟩ := Option.bind_eq_some_iff.mp h
    obtain ⟨⟨hum, r2⟩, hhum, h⟩ := Option.map_eq_some_iff.mp h
    cases h
    obtain ⟨words_temp, rest_temp⟩ := readWord_takes_one_step htemp
    obtain ⟨words_hum, rest_hum⟩ := readWord_takes_one_step hhum
    refine ⟨temp, hum, r1, htemp, hhum, ?_, rest_temp.trans (congrArg Nat.succ rest_hum), rfl⟩
    rw [words_hum, words_temp, List.append_assoc]
    rfl
  · cases h
    exact ⟨rfl, rfl⟩
  · cases h
    exact ⟨rfl, rfl⟩

end Sys2Proof.Machine
end

section
/-! PROOFS, part 11. The step from a busy state as the engine's operation, and the transition table (R87). -/

namespace Sys2Proof.Machine

/-! ## The step from a busy state -/

/-- A step without reset from a busy state is the engine's operation on the sampled registers. -/
theorem engineStep_of_busy {s t : State} {q : Sequencer} (hs : s.seq = q) (hr : s.nextPorts.rst = false)
    (h : step s = .next t) (hq : q ≠ .idle ∧ q ≠ .done := by decide) :
    ∃ r, EngineStep { s.sample with hRdata := r } q t := by
  subst hs
  rcases step_next_cases_of_no_reset s t hr h with ⟨hrest, -⟩ | h
  · exact (hrest.elim hq.1 hq.2).elim
  · exact h

/-- In a busy state an outcome that the engine's operation has is the one of the step. -/
theorem step_of_engineStep {s : State} {q : Sequencer} {t : Option Word → State} (hs : s.seq = q)
    (hr : s.nextPorts.rst = false) (e : ∀ r, EngineStep { s.sample with hRdata := r } q (t r))
    (hq : q ≠ .idle ∧ q ≠ .done := by decide) : ∃ r, step s = .next (t r) := by
  subst hs
  rcases step_cases s hr with ⟨-, r, hstep, -⟩ | ⟨-, hrest, -⟩
  · exact ⟨r, hstep.trans (exec_of_engineStep _ _ _ (e r))⟩
  · exact (hrest.elim hq.1 hq.2).elim

/-! ## The rows of the table -/

/-- A step without reset at rest goes to `DRV_OUT` with a `START` and nowhere without one (R88). -/
theorem seq_of_step_at_rest {s t : State} (hq : s.seq = .idle ∨ s.seq = .done) (hr : s.nextPorts.rst = false)
    (h : step s = .next t) : t.seq = if startNow s.nextPorts = true then .drvOut else s.seq := by
  cases hs : startNow s.nextPorts
  · obtain ⟨u, hu, hsame⟩ := step_at_rest hq hr hs
    cases hu.symm.trans h
    exact seq_of_sameRegisters hsame
  · cases (step_start hq hr hs).symm.trans h
    rfl

/-- The exit of the loop is decided by the counts after the step (R99). -/
theorem polled_seq (s : State) :
    s.polled.seq = if 41 ≤ s.polled.hcnt.toNat ∨ s.pollBudget ≤ s.polled.iter.toNat then .chkCnt else s.seq := by
  have budget : s.iterated.pollBudget = s.pollBudget := by rw [iterated_frame]; rfl
  have seq : s.iterated.seq = s.seq := by rw [iterated_frame]
  unfold State.polled
  rcases leaveLoop_cases s.iterated with ⟨hend, e⟩ | ⟨hh, hi, e⟩ <;> rw [e]
  · exact (if_pos (budget ▸ hend)).symm
  · rw [seq, if_neg (by omega)]

/-- The fortieth bit is followed by `CHK_SUM`, the others by `SHIFT` (R112). -/
theorem assembleBit_seq {s : State} (k : Fin 5) (x : Bool) (h : s.bitidx.toNat < 40) :
    (s.assembleBit k x).seq = if (s.assembleBit k x).bitidx.toNat = 40 then .chkSum else s.seq := by
  rw [bitidx_assembleBit k x h, assembleBit_eq]

/-- Settles O37, row by row: rest by `seq_of_step_at_rest`, each other row by the outcome of the engine's operation. -/
theorem transitionTable : Obligations.TransitionTable := by
  intro s t h
  have rest {q : Sequencer} (hr : s.nextPorts.rst = false) (hq : q = .idle ∨ q = .done) (hs : s.seq = q) :
      t.seq = if s.nextPorts.hValid = true ∧ s.nextPorts.hWrite = true ∧ s.nextPorts.hAddr = 0 ∧
        s.nextPorts.hWdata.getLsbD 0 = true then .drvOut else q := by
    rw [seq_of_step_at_rest (hs ▸ hq) hr h, hs]
    exact if_congr (startNow_iff _) rfl rfl
  have row {q : Sequencer} {u : Option Word → State} (hr : s.nextPorts.rst = false) (hs : s.seq = q)
      (e : ∀ r, EngineStep { s.sample with hRdata := r } q (u r)) (hq : q ≠ .idle ∧ q ≠ .done := by decide) :
      ∃ r, t = u r := by
    obtain ⟨r, hstep⟩ := step_of_engineStep hs hr e hq
    exact ⟨r, Host.Outcome.next.inj (h.symm.trans hstep)⟩
  refine ⟨fun hr => ?reset, fun hr => ⟨rest hr (.inl rfl), fun hs => ?drvOut, fun hs => ?drvLow, fun hs => ?hold,
    fun hs => ?relIn, fun hs => ?poll, fun hs hc => ?countFailed, fun hs hc => ?countPassed, fun hs => ?skip,
    fun hs => ?shift, fun hs hc => ?sumFailed, fun hs hc => ?sumPassed, fun hs => ?conv, rest hr (.inr rfl)⟩⟩
  case reset =>
    cases (step_reset s hr).symm.trans h
    rfl
  case hold =>
    by_cases hend : 10000 ≤ (s.nextPorts.ts - s.t0).toNat
    · obtain ⟨r, rfl⟩ := row hr hs fun _ => .holdEnd hend
      exact (if_pos hend).symm
    · obtain ⟨r, rfl⟩ := row hr hs fun _ => .holdOn (Nat.lt_of_not_le hend)
      exact hs.trans (if_neg hend).symm
  case poll =>
    obtain ⟨r, rfl⟩ := row hr hs fun _ => .poll
    exact hs ▸ polled_seq { s.sample with hRdata := r }
  case shift =>
    obtain ⟨r, e⟩ := engineStep_of_busy hs hr h
    cases e with
    | rest hq | start hq => simp at hq
    | shift hn => exact hs ▸ assembleBit_seq _ _ hn
  case sumFailed =>
    have differs : checksum s.b0 s.b1 s.b2 s.b3 ≠ s.b4 := by
      intro hsum
      obtain ⟨r, rfl⟩ := row hr hs fun _ => .sumPassed hsum
      exact hc hsum
    obtain ⟨r, rfl⟩ := row hr hs fun _ => .sumFailed differs
    exact ⟨rfl, rfl⟩
  case sumPassed =>
    have agrees : checksum s.b0 s.b1 s.b2 s.b3 = s.b4 := by
      by_contra hsum
      obtain ⟨r, rfl⟩ := row hr hs fun _ => .sumFailed hsum
      exact hsum hc
    obtain ⟨r, rfl⟩ := row hr hs fun _ => .sumPassed agrees
    rfl
  case drvOut => obtain ⟨r, rfl⟩ := row hr hs fun _ => .drvOut; rfl
  case drvLow => obtain ⟨r, rfl⟩ := row hr hs fun _ => .drvLow; rfl
  case relIn => obtain ⟨r, rfl⟩ := row hr hs fun _ => .relIn; rfl
  case countFailed => obtain ⟨r, rfl⟩ := row hr hs fun _ => .countFailed hc; exact ⟨rfl, rfl⟩
  case countPassed => obtain ⟨r, rfl⟩ := row hr hs fun _ => .countPassed hc; rfl
  case skip => obtain ⟨r, rfl⟩ := row hr hs fun _ => .skip; rfl
  case conv => obtain ⟨r, rfl⟩ := row hr hs fun _ => .conv; rfl

end Sys2Proof.Machine
end

section
/-! PROOFS, part 12. Runs of busy states, and the decoder as one function of the captured train (R86, R110 to R116, R120,
R125). -/

namespace Sys2Proof.Machine

/-! ## Runs of busy states -/

/-- A run of `n` steps from `s` to `t` all of whose states before `t` are busy. -/
inductive BusyRun : Nat → State → State → Prop
  | nil (s : State) : BusyRun 0 s s
  | cons {n : Nat} {s t u : State} (busy : s.busy = true) (first : step s = .next t) (rest : BusyRun n t u) :
      BusyRun (n + 1) s u

theorem BusyRun.run_eq {n : Nat} {s t : State} (b : BusyRun n s t) : run n s = .next t := by
  induction b with
  | nil s => rfl
  | cons _ first _ ih => exact (run_succ _ _ _ first).trans ih

theorem BusyRun.busy_before {n m : Nat} {s t u : State} (b : BusyRun n s t) (hm : m < n) (h : run m s = .next u) :
    u.busy = true := by
  induction b generalizing m with
  | nil s => omega
  | cons busy first _ ih =>
    cases m with
    | zero =>
      cases h
      exact busy
    | succ m => exact ih (by omega) ((run_succ _ _ _ first).symm.trans h)

theorem BusyRun.trans {n m : Nat} {s t u : State} (b : BusyRun n s t) (b' : BusyRun m t u) : BusyRun (n + m) s u := by
  induction b with
  | nil s => exact (Nat.zero_add m).symm ▸ b'
  | @cons n _ _ _ busy first _ ih => exact Nat.succ_add n m ▸ .cons busy first (ih b')

theorem BusyRun.inv {n : Nat} {s t : State} (b : BusyRun n s t) (h : Inv s) : Inv t := by
  induction b with
  | nil s => exact h
  | cons _ first _ ih => exact ih (everyStepKeepsTheInvariant _ _ h first)

theorem BusyRun.pollBudget {n : Nat} {s t : State} (b : BusyRun n s t) : t.pollBudget = s.pollBudget := by
  induction b with
  | nil s => rfl
  | cons _ first _ ih =>
    obtain ⟨-, -, params⟩ := step_model_fields _ _ first
    exact ih.trans (congrArg Params.pollBudget params)

theorem BusyRun.portsAt {n : Nat} {s t : State} (b : BusyRun n s t) (k : Nat) : t.portsAt k = s.portsAt (k + n) := by
  induction b with
  | nil s => rfl
  | cons _ first _ ih => exact ih.trans (portsAt_step _ _ first _)

theorem BusyRun.noResetFor {n m : Nat} {s t : State} (b : BusyRun n s t) (h : s.noResetFor (m + n)) :
    t.noResetFor m := by
  intro k hk
  rw [b.portsAt]
  exact h _ (by omega)

theorem State.noResetFor.mono {m n : Nat} {s : State} (h : s.noResetFor n) (hmn : m ≤ n) : s.noResetFor m :=
  fun k hk => h k (by omega)

theorem State.noResetFor.head {n : Nat} {s : State} (h : s.noResetFor (n + 1)) : s.nextPorts.rst = false :=
  portsAt_zero s ▸ h 0 (Nat.succ_pos n)

/-- One step in a busy state: what the engine's operation can answer, and what holds of that. -/
theorem busyRun_one {s : State} {q : Sequencer} (P : State → Prop) (hs : s.seq = q) (hr : s.nextPorts.rst = false)
    (e : ∀ r, ∃ t, EngineStep { s.sample with hRdata := r } q t ∧ P t) (hq : q ≠ .idle ∧ q ≠ .done := by decide) :
    ∃ t, BusyRun 1 s t ∧ P t := by
  choose t answer holds using e
  obtain ⟨r, hstep⟩ := step_of_engineStep hs hr answer hq
  exact ⟨t r, .cons (decide_eq_true (hs ▸ hq)) hstep (.nil _), holds r⟩

/-! ## What the decoder keeps -/

/-- Two states of one read after its capture: what the decoder reads, and the count of iterations, agree. -/
structure SameCapture (s t : State) : Prop where
  variant : t.variant = s.variant
  hcnt : t.hcnt = s.hcnt
  high : t.high = s.high
  iter : t.iter = s.iter

/-- No operation of the decoder writes what was captured, and none leads back into the capture (R113, R87). -/
theorem engineStep_keeps_capture {s t : State} {q : Sequencer} (hq : afterLoop q = true ∧ q ≠ .done)
    (hs : s.seq = q) (e : EngineStep s q t) : SameCapture s t ∧ afterLoop t.seq = true := by
  obtain ⟨after, not_done⟩ := hq
  cases e with
  | rest hq | start hq => rcases hq with rfl | rfl <;> simp [afterLoop] at after not_done
  | drvOut | drvLow | holdOn | holdEnd | relIn | poll => simp [afterLoop] at after
  | shift hn d hd =>
    refine ⟨?_, ?_⟩
    · rw [assembleBit_eq, setFrameByte_frame]
      exact ⟨rfl, rfl, rfl, rfl⟩
    · rw [assembleBit_seq _ _ hn, hs]
      split <;> rfl
  | _ => exact ⟨⟨rfl, rfl, rfl, rfl⟩, rfl⟩

/-- A run of the decoder keeps what was captured. -/
theorem BusyRun.sameCapture {n : Nat} {s t : State} (b : BusyRun n s t) (hs : afterLoop s.seq = true)
    (hr : s.noResetFor n) : SameCapture s t := by
  induction b with
  | nil s => exact ⟨rfl, rfl, rfl, rfl⟩
  | @cons n s t u busy first _ ih =>
    obtain ⟨not_idle, not_done⟩ := decide_eq_true_iff.mp busy
    obtain ⟨r, e⟩ := engineStep_of_busy rfl hr.head first ⟨not_idle, not_done⟩
    obtain ⟨kept, after⟩ := engineStep_keeps_capture (s := { s.sample with hRdata := r }) ⟨hs, not_done⟩ rfl e
    have later := ih after ((BusyRun.cons busy first (.nil t)).noResetFor hr)
    exact ⟨later.variant.trans kept.variant, later.hcnt.trans kept.hcnt, later.high.trans kept.high,
      later.iter.trans kept.iter⟩

/-! ## The phases of the decoder -/

/-- The number of decoder steps of a read that ends in the error `e` (R89). -/
def decoderSteps : ErrCode → Nat
  | .noError => 44
  | .invalidChecksum => 43
  | .invalidNumberOfPulses => 1

theorem decoderSteps_le (e : ErrCode) : decoderSteps e ≤ 44 := by
  cases e <;> decide

/-- One step of the bit assembly (R112). -/
theorem Inv.shift_step {s : State} (h : Inv s) (hs : s.seq = .shift) (hr : s.nextPorts.rst = false) :
    ∃ t, BusyRun 1 s t ∧ t.bitidx.toNat = s.bitidx.toNat + 1 ∧
      t.seq = if t.bitidx.toNat = 40 then .chkSum else .shift := by
  obtain ⟨hn, d, hd⟩ := h.selectedDuration_isSome hs
  refine busyRun_one _ hs hr fun r => ⟨_, .shift (s := { s.sample with hRdata := r }) hn d hd, ?_, ?_⟩
  · exact bitidx_assembleBit _ _ hn
  · exact hs ▸ assembleBit_seq _ _ hn

/-- The bit assembly takes a step for each bit that is missing (R112). -/
theorem Inv.shift_run {s : State} (h : Inv s) (hs : s.seq = .shift) (n : Nat) (hn : s.bitidx.toNat + (n + 1) = 40)
    (hr : s.noResetFor (n + 1)) : ∃ t, BusyRun (n + 1) s t ∧ t.seq = .chkSum := by
  induction n generalizing s with
  | zero =>
    obtain ⟨t, b, hbit, hseq⟩ := h.shift_step hs hr.head
    exact ⟨t, b, hseq.trans (if_pos (hbit.trans hn))⟩
  | succ n ih =>
    obtain ⟨u, b, hbit, hseq⟩ := h.shift_step hs hr.head
    obtain ⟨t, b', ht⟩ := ih (b.inv h) (hseq.trans (if_neg (by omega))) (by omega) (b.noResetFor hr)
    exact ⟨t, Nat.add_comm 1 (n + 1) ▸ b.trans b', ht⟩

/-- With forty high phases or more the decoder is at `CHK_SUM` after 42 steps (R110 to R112). -/
theorem Inv.assembly_run {s : State} (h : Inv s) (hs : s.seq = .chkCnt) (hh : 40 ≤ s.hcnt.toNat)
    (hr : s.noResetFor 42) : ∃ t, BusyRun 42 s t ∧ t.seq = .chkSum := by
  have no_bits : s.bitidx = 0 := (h.undecoded (by simp [State.passedSkip, State.passedCount, hs])).bitidx_zero
  obtain ⟨u, b1, hu, bits_u⟩ := busyRun_one (fun u => u.seq = .skip ∧ u.bitidx = s.bitidx) hs hr.head
    fun _ => ⟨_, .countPassed hh, rfl, rfl⟩
  obtain ⟨v, b2, hv, bits_v⟩ := busyRun_one (fun v => v.seq = .shift ∧ v.bitidx = u.bitidx) hu
    (b1.noResetFor (m := 41) hr).head fun _ => ⟨_, .skip, rfl, rfl⟩
  have b := b1.trans b2
  have missing : v.bitidx.toNat + (39 + 1) = 40 := by rw [bits_v, bits_u, no_bits]; rfl
  obtain ⟨t, b3, ht⟩ := (b.inv h).shift_run hv 39 missing (b.noResetFor hr)
  exact ⟨t, b.trans b3, ht⟩

/-- The two last steps: the sum check ends the read, or lets `CONV` end it one step later (R120, R125). -/
theorem Inv.check_run {s : State} (h : Inv s) (hs : s.seq = .chkSum) (hr : s.noResetFor 2) :
    ∃ t, t.seq = .done ∧
      ((t.err = .invalidChecksum ∧ BusyRun 1 s t) ∨ (t.err = .noError ∧ BusyRun 2 s t)) := by
  by_cases hsum : checksum s.b0 s.b1 s.b2 s.b3 = s.b4
  · obtain ⟨u, b1, hu, err_u⟩ := busyRun_one (fun u => u.seq = .conv ∧ u.err = s.err) hs hr.head
      fun _ => ⟨_, .sumPassed hsum, rfl, rfl⟩
    obtain ⟨t, b2, ht, err_t⟩ := busyRun_one (fun t => t.seq = .done ∧ t.err = u.err) hu
      (b1.noResetFor (m := 1) hr).head fun _ => ⟨_, .conv, rfl, rfl⟩
    have no_error : s.err = .noError := h.err_busy (by simp [hs])
    exact ⟨t, ht, .inr ⟨err_t.trans (err_u.trans no_error), b1.trans b2⟩⟩
  · obtain ⟨t, b, ht, err_t⟩ := busyRun_one (fun t => t.seq = .done ∧ t.err = .invalidChecksum) hs hr.head
      fun _ => ⟨_, .sumFailed hsum, rfl, rfl⟩
    exact ⟨t, ht, .inl ⟨err_t, b⟩⟩

/-- The decoder takes the number of steps that its error says, and keeps what was captured (R89, R113). -/
theorem Inv.decoder_run {s : State} (h : Inv s) (hs : s.seq = .chkCnt) (hr : s.noResetFor 44) :
    ∃ t, BusyRun (decoderSteps t.err) s t ∧ t.seq = .done ∧ SameCapture s t := by
  have ends : ∃ t, BusyRun (decoderSteps t.err) s t ∧ t.seq = .done := by
    rcases Nat.lt_or_ge s.hcnt.toNat 40 with hh | hh
    · obtain ⟨t, b, ht, err⟩ := busyRun_one (fun t => t.seq = .done ∧ t.err = .invalidNumberOfPulses) hs hr.head
        fun _ => ⟨_, .countFailed hh, rfl, rfl⟩
      exact ⟨t, err ▸ b, ht⟩
    · obtain ⟨u, b, hu⟩ := h.assembly_run hs hh (hr.mono (by omega))
      obtain ⟨t, ht, ⟨err, b'⟩ | ⟨err, b'⟩⟩ := (b.inv h).check_run hu (b.noResetFor hr)
      · exact ⟨t, err ▸ b.trans b', ht⟩
      · exact ⟨t, err ▸ b.trans b', ht⟩
  obtain ⟨t, b, ht⟩ := ends
  exact ⟨t, b, ht, b.sameCapture (by rw [hs]; rfl) (hr.mono (decoderSteps_le _))⟩

/-! ## The decoder as a function of the train -/

/-- The top bit of a byte and the number below it (R67). -/
theorem byte_top_bit (b : Byte) : (b.getLsbD 7 = true ↔ 128 ≤ b.toNat) ∧ (b &&& 0x7F).toNat = b.toNat % 128 := by
  revert b
  decide

/-- The converted temperature in plain numbers (R128, R129). -/
theorem fahrenheit_eq (v : Variant) (b2 b3 : Byte) :
    fahrenheitHundredths (celsiusTenths v b2 b3) =
      (if 128 ≤ b2.toNat then
          -((if v = .type11 then b2.toNat * 10 else b2.toNat % 128 * 256 + b3.toNat : Nat) : Int)
        else ((if v = .type11 then b2.toNat * 10 else b2.toNat % 128 * 256 + b3.toNat : Nat) : Int)) * 18 + 3200 := by
  obtain ⟨sign, rest⟩ := byte_top_bit b2
  unfold fahrenheitHundredths celsiusTenths magnitudeTenths
  rw [rest, if_congr sign rfl rfl]

/-- In a final state the pulses were too few, or all five bytes are assembled and the sum was checked (R87). -/
theorem passedSum_of_done {s : State} (hs : s.seq = .done) (he : s.err ≠ .invalidNumberOfPulses) :
    s.passedCount = true ∧ s.passedShift = true ∧ s.passedSum = true := by
  simp [State.passedSum, State.passedShift, State.passedSkip, State.passedCount, hs, he]

/-- A final state past the count check ends without an error exactly where the sum is the checksum byte (R120). -/
theorem Inv.no_error_iff {s : State} (h : Inv s) (past : s.passedSum = true) :
    s.err = .noError ↔ (s.b0.toNat + s.b1.toNat + s.b2.toNat + s.b3.toNat) % 256 = s.b4.toNat := by
  have hsum := h.sum_value
  rw [if_pos past] at hsum
  rw [h.sum_passed past, hsum, ← checksum_toNat, BitVec.toNat_inj]

/-- The bytes of the closed form, of a final state past the count check (R114). -/
theorem Inv.trainByte_eq {s : State} (h : Inv s) (past : s.passedShift = true) :
    trainByte s.hcnt.toNat s.high 0 = s.b0.toNat ∧ trainByte s.hcnt.toNat s.high 1 = s.b1.toNat ∧
    trainByte s.hcnt.toNat s.high 2 = s.b2.toNat ∧ trainByte s.hcnt.toNat s.high 3 = s.b3.toNat ∧
    trainByte s.hcnt.toNat s.high 4 = s.b4.toNat := by
  have closed (k : Fin 5) : trainByte s.hcnt.toNat s.high k = (s.frameByte k).toNat :=
    (frameBytesAreTheClosedForm s h (h.assembled past) k).symm
  exact ⟨closed 0, closed 1, closed 2, closed 3, closed 4⟩

/-- What `decodeTrain` answers is read off a final state: with too few pulses nothing is decoded, and otherwise the
frame bytes are the closed form of the train. -/
theorem Inv.decodeTrain_eq {s : State} (h : Inv s) (hs : s.seq = .done) :
    decodeTrain s.variant s.hcnt.toNat s.high =
      { err := s.err, temp := s.temp.toInt, hum := s.hum.toNat, steps := decoderSteps s.err } := by
  have results := h.results
  by_cases few : s.err = .invalidNumberOfPulses
  · rw [if_neg (by simp [few])] at results
    obtain ⟨temp, hum⟩ := results
    rw [decodeTrain, if_pos (h.count_failed hs few), few, temp, hum]
    rfl
  · obtain ⟨past_count, past_shift, past_sum⟩ := passedSum_of_done hs few
    obtain ⟨e0, e1, e2, e3, e4⟩ := h.trainByte_eq past_shift
    have enough := h.count_passed past_count
    have no_error := h.no_error_iff past_sum
    simp only [decodeTrain, e0, e1, e2, e3, e4]
    rw [if_neg (Nat.not_lt_of_le enough)]
    by_cases ok : s.err = .noError
    · rw [if_pos ⟨hs, ok⟩] at results
      obtain ⟨temp, hum⟩ := results
      rw [if_neg (not_not.mpr (no_error.mp ok)), ok, temp, hum, fahrenheit_eq]
      rfl
    · have bad_sum : s.err = .invalidChecksum := by
        cases he : s.err
        · exact absurd he ok
        · exact absurd he few
        · rfl
      rw [if_neg fun hd => ok hd.2] at results
      obtain ⟨temp, hum⟩ := results
      rw [if_pos (mt no_error.mpr ok), bad_sum, temp, hum]
      rfl

/-- Settles O51: the decoder ends in a final state of the same capture, and `decodeTrain` is read off that state. -/
theorem decoderIsAFunctionOfTheTrain : Obligations.DecoderIsAFunctionOfTheTrain := by
  intro s h hs hr
  obtain ⟨t, b, ht, capture⟩ := h.decoder_run hs hr
  have decoded := (b.inv h).decodeTrain_eq ht
  rw [capture.variant, capture.hcnt, capture.high] at decoded
  rw [decoded]
  exact ⟨t, b.run_eq, ht, rfl, rfl, rfl⟩

end Sys2Proof.Machine
end

section
/-! PROOFS, part 13. The length of a read: the start signal, the capture and the decoder one after the other (R89 to R94,
R99). -/

namespace Sys2Proof.Machine

/-! ## The start signal -/

/-- The hold ends in the first step that sees 10000 microseconds since `T0` (R92). -/
theorem hold_run {s : State} (n : Nat) (hs : s.seq = .hold) (hr : s.noResetFor (n + 1))
    (short : ∀ k, k < n → ((s.portsAt k).ts - s.t0).toNat < 10000) (long : 10000 ≤ ((s.portsAt n).ts - s.t0).toNat) :
    ∃ t, BusyRun (n + 1) s t ∧ t.seq = .relIn := by
  induction n generalizing s with
  | zero =>
    have passes : 10000 ≤ (s.nextPorts.ts - s.t0).toNat := portsAt_zero s ▸ long
    exact busyRun_one _ hs hr.head fun _ => ⟨_, .holdEnd passes, rfl⟩
  | succ n ih =>
    have waits : (s.nextPorts.ts - s.t0).toNat < 10000 := portsAt_zero s ▸ short 0 (by omega)
    obtain ⟨u, b, hu, t0⟩ := busyRun_one (fun u => u.seq = .hold ∧ u.t0 = s.t0) hs hr.head
      fun _ => ⟨_, .holdOn waits, hs, rfl⟩
    have later (k : Nat) : ((u.portsAt k).ts - u.t0) = ((s.portsAt (k + 1)).ts - s.t0) := by rw [b.portsAt, t0]
    obtain ⟨t, b', ht⟩ := ih hu (b.noResetFor hr) (fun k hk => by rw [later]; exact short _ (by omega))
      (by rw [later]; exact long)
    exact ⟨t, Nat.add_comm 1 (n + 1) ▸ b.trans b', ht⟩

/-- From `DRV_OUT` the start signal takes two steps and the hold (R90 to R92). -/
theorem start_signal_run {s : State} (n : Nat) (hs : s.seq = .drvOut) (hr : s.noResetFor (n + 3))
    (short : ∀ k, 2 ≤ k → k < n + 2 → ((s.portsAt k).ts - (s.portsAt 1).ts).toNat < 10000)
    (long : 10000 ≤ ((s.portsAt (n + 2)).ts - (s.portsAt 1).ts).toNat) :
    ∃ t, BusyRun (n + 3) s t ∧ t.seq = .relIn := by
  obtain ⟨u, b1, hu⟩ := busyRun_one (fun u => u.seq = .drvLow) hs hr.head fun _ => ⟨_, .drvOut, rfl⟩
  obtain ⟨v, b2, hv, t0⟩ := busyRun_one (fun v => v.seq = .hold ∧ v.t0 = u.nextPorts.ts) hu
    (b1.noResetFor (m := n + 2) hr).head fun _ => ⟨_, .drvLow, rfl, rfl⟩
  have b := b1.trans b2
  rw [← portsAt_zero, b1.portsAt] at t0
  have later (k : Nat) : ((v.portsAt k).ts - v.t0) = ((s.portsAt (k + 2)).ts - (s.portsAt 1).ts) := by
    rw [b.portsAt, t0]
  obtain ⟨t, b3, ht⟩ := hold_run n hv (b.noResetFor hr)
    (fun k hk => by rw [later]; exact short _ (by omega) (by omega)) (by rw [later]; exact long)
  exact ⟨t, Nat.add_comm 2 (n + 1) ▸ b.trans b3, ht⟩

/-! ## The capture -/

/-- An iteration counts itself (R94). -/
theorem polled_iter {s : State} (h : s.iter.toNat + 1 < 2 ^ 32) : s.polled.iter.toNat = s.iter.toNat + 1 := by
  have counted {u : State} (hu : u.iter = s.iter) : u.countIteration.iter.toNat = s.iter.toNat + 1 := by
    rw [countIteration_of_fits u (by rw [hu]; exact h), ← hu]
    exact succ_toNat (by rw [hu]; exact h)
  unfold State.polled State.iterated
  rw [leaveLoop_frame]
  split
  · exact counted (by rw [observe_frame])
  · exact counted rfl

/-- One iteration of the loop (R94, R99). -/
theorem Inv.poll_step {s : State} (h : Inv s) (hs : s.seq = .poll) (hr : s.nextPorts.rst = false) :
    ∃ t, BusyRun 1 s t ∧ t.iter.toNat = s.iter.toNat + 1 ∧ (t.seq = .chkCnt ∨ t.seq = .poll) := by
  obtain ⟨-, hi⟩ := h.polling hs
  obtain ⟨-, hbudget⟩ := params_range_of_wellFormed h.params_wf
  refine busyRun_one _ hs hr fun _ => ⟨_, .poll, polled_iter ?_, ?_⟩
  · exact (show s.iter.toNat + 1 < 2 ^ 32 by omega)
  · rw [polled_seq]
    exact ite_eq_or_eq _ _ _ |>.imp_right (·.trans hs)

/-- The loop ends after a number of iterations that the budget still allows, each counted (R99). -/
theorem Inv.poll_run {s : State} (h : Inv s) (hs : s.seq = .poll) (n : Nat) (hn : s.iter.toNat + n = s.pollBudget)
    (hr : s.noResetFor n) :
    ∃ p t, p ≤ n ∧ BusyRun p s t ∧ t.seq = .chkCnt ∧ t.iter.toNat = s.iter.toNat + p := by
  induction n generalizing s with
  | zero =>
    obtain ⟨-, hi⟩ := h.polling hs
    omega
  | succ n ih =>
    obtain ⟨u, b, iter, hu | hu⟩ := h.poll_step hs hr.head
    · exact ⟨1, u, by omega, b, hu, iter⟩
    · obtain ⟨p, t, hp, b', ht, iter'⟩ := ih (b.inv h) hu (by rw [b.pollBudget, iter]; omega) (b.noResetFor hr)
      exact ⟨1 + p, t, by omega, b.trans b', ht, by omega⟩

/-- From `REL_IN` the capture takes its step and the iterations of the loop, none with a budget of 0 (R93, R99). -/
theorem Inv.capture_run {s : State} (h : Inv s) (hs : s.seq = .relIn) (hr : s.noResetFor (s.pollBudget + 1)) :
    ∃ p t, p ≤ s.pollBudget ∧ BusyRun (1 + p) s t ∧ t.seq = .chkCnt ∧ t.iter.toNat = p := by
  obtain ⟨-, -, no_iteration, -⟩ := h.fresh (by rw [hs]; rfl)
  obtain ⟨u, b, hu, iter_u⟩ := busyRun_one
    (fun u => u.seq = (if s.pollBudget = 0 then .chkCnt else .poll) ∧ u.iter = s.iter) hs hr.head
    fun _ => ⟨_, .relIn, rfl, rfl⟩
  have iter : u.iter.toNat = 0 := by rw [iter_u, no_iteration]; rfl
  by_cases hb : s.pollBudget = 0
  · rw [if_pos hb] at hu
    exact ⟨0, u, Nat.zero_le _, b, hu, iter⟩
  · rw [if_neg hb] at hu
    obtain ⟨p, t, hp, b', ht, iter'⟩ := (b.inv h).poll_run hu s.pollBudget (by rw [iter, b.pollBudget, Nat.zero_add])
      (b.noResetFor hr)
    exact ⟨p, t, hp, b.trans b', ht, by omega⟩

/-! ## The read -/

/-- From `DRV_OUT` a read takes the start signal, the capture and the decoder (R89). -/
theorem Inv.read_run {s : State} (h : Inv s) (n : Nat) (hs : s.seq = .drvOut)
    (hr : s.noResetFor (44 + (s.pollBudget + 1) + (n + 3)))
    (short : ∀ k, 2 ≤ k → k < n + 2 → ((s.portsAt k).ts - (s.portsAt 1).ts).toNat < 10000)
    (long : 10000 ≤ ((s.portsAt (n + 2)).ts - (s.portsAt 1).ts).toNat) :
    ∃ p t, p ≤ s.pollBudget ∧ BusyRun (n + 3 + (1 + p) + decoderSteps t.err) s t ∧ t.seq = .done ∧
      t.iter.toNat = p := by
  obtain ⟨u, b1, hu⟩ := start_signal_run n hs (hr.mono (by omega)) short long
  have hr_u := b1.noResetFor hr
  obtain ⟨p, v, hp, b2, hv, iter_v⟩ := (b1.inv h).capture_run hu (hr_u.mono (by rw [b1.pollBudget]; omega))
  rw [b1.pollBudget] at hp
  have b := b1.trans b2
  have hr_v : v.noResetFor 44 := b2.noResetFor (hr_u.mono (by omega))
  obtain ⟨t, b3, ht, capture⟩ := (b.inv h).decoder_run hv hr_v
  exact ⟨p, t, hp, b.trans b3, ht, by rw [capture.iter, iter_v]⟩

/-- Settles O53: the first step begins the read, `Inv.read_run` is the rest. -/
theorem everyReadEndsInItsLength : Obligations.EveryReadEndsInItsLength := by
  intro s h hinv hq hh hs hr short long
  obtain ⟨n, rfl⟩ : ∃ n, h = n + 1 := ⟨h - 1, by omega⟩
  have first := step_start hq ((hr.mono (m := 1) (by omega)).head) (portsAt_zero s ▸ hs)
  have later := portsAt_step s _ first
  have budget : s.sample.beginRead.pollBudget = s.params.pollBudget := rfl
  rw [show 2 + (n + 1) = n + 2 + 1 by omega] at long
  obtain ⟨p, t, hp, b, ht, iter⟩ := (everyStepKeepsTheInvariant s _ hinv first).read_run n rfl
    (fun k hk => by rw [later]; exact hr _ (by omega))
    (fun k h2 hk => by rw [later, later]; exact short _ (by omega) (by omega))
    (by rw [later, later]; exact long)
  refine ⟨p, n + 3 + (1 + p) + decoderSteps t.err + 1, t, hp, (run_succ _ _ _ first).trans b.run_eq, ht, iter,
    fun he => ?_, fun he => ?_, fun he => ?_, fun m u h1 hm hrun => ?_⟩
  · rw [he, decoderSteps]; omega
  · rw [he, decoderSteps]; omega
  · rw [he, decoderSteps]; omega
  · obtain ⟨m, rfl⟩ : ∃ i, m = i + 1 := ⟨m - 1, by omega⟩
    exact b.busy_before (by omega) ((run_succ m _ _ first).symm.trans hrun)

end Sys2Proof.Machine
end

section
/-! PROOFS, part 14. The capture, operation by operation: the start signal, one iteration of the loop in closed form, what
the host reads of a recorded phase, and the two ways to wait (R90 to R100, R171). -/

namespace Sys2Proof.Machine

/-! ## The start signal (R90 to R93) -/

/-- Settles O18: the level is the one that the invariant knows (R15). -/
theorem drvOutSetsOutput : Obligations.DrvOutSetsOutput := by
  refine fun s => ⟨rfl, fun t hinv h => ?_⟩
  cases h
  exact ⟨rfl, hinv.line_low⟩

/-- Settles O19, by the definition of the operation. -/
theorem drvLowNotesTheTime : Obligations.DrvLowNotesTheTime := fun _ => rfl

/-- Settles O20: the difference is taken modulo 2^32. -/
theorem holdLeavesAfterTenMilliseconds : Obligations.HoldLeavesAfterTenMilliseconds := by
  intro s
  rw [← elapsedUs_toNat]
  rfl

/-- Settles O21, by the definition of the operation. -/
theorem relInStartsTheLoop : Obligations.RelInStartsTheLoop := fun _ => rfl

/-- While fewer than 10000 microseconds have passed since `T0`, a step in `HOLD` changes no register (R92). -/
theorem step_holdOn {s : State} (hs : s.seq = .hold) (hr : s.nextPorts.rst = false)
    (short : (s.nextPorts.ts - s.t0).toNat < 10000) : ∃ t, step s = .next t ∧ sameRegisters s t := by
  obtain ⟨r, hstep⟩ := step_of_engineStep hs hr fun _ => .holdOn short
  exact ⟨_, hstep, rfl⟩

/-- Settles O47, by induction on the number of steps: each is that of `step_holdOn`, which keeps `STATE` and `T0`. -/
theorem holdHangsWhileTimeStands : Obligations.HoldHangsWhileTimeStands := by
  intro n
  induction n with
  | zero => exact fun s _ _ => ⟨s, rfl, rfl⟩
  | succ n ih =>
    intro s hs short
    obtain ⟨hr, hts⟩ := short 0 (Nat.succ_pos n)
    rw [portsAt_zero] at hr hts
    obtain ⟨u, hstep, hsu⟩ := step_holdOn hs hr hts
    have seq : u.seq = s.seq := seq_of_sameRegisters hsu
    have t0 : u.t0 = s.t0 := by rw [hsu]
    obtain ⟨t, hrun, hut⟩ := ih u (seq.trans hs) fun k hk => by
      rw [portsAt_step s u hstep, t0]
      exact short (k + 1) (by omega)
    exact ⟨t, (run_succ n s u hstep).trans hrun, sameRegisters_trans hsu hut⟩

/-! ## One iteration of the loop (R94) -/

/-- An iteration is what it observes, the count of iterations and the exit. -/
theorem polled_eq (s : State) :
    s.polled = { (if s.ports.lineIn ≠ s.prev then s.observe else s) with
                 iter := s.polled.iter, seq := s.polled.seq } := by
  unfold State.polled State.iterated
  rw [leaveLoop_frame, countIteration_frame]

/-- An iteration that observes a transition (R95). -/
theorem polled_of_moved {s : State} (moved : s.ports.lineIn ≠ s.prev) :
    s.polled = { s.observe with iter := s.polled.iter, seq := s.polled.seq } := by
  rw [polled_eq, if_pos moved]

/-- A low phase that ends below capacity is recorded (R96). -/
theorem observe_low {s : State} (hp : s.prev = false) (hl : s.lcnt.toNat < s.cap) :
    s.observe = { s with low := s.low.setIfInBounds s.lcnt.toNat (s.ports.ts - s.anchor), lcnt := s.lcnt + 1
                         anchor := s.ports.ts, prev := s.ports.lineIn } := by
  rcases observe_cases s with ⟨-, -, e⟩ | ⟨-, h, -⟩ | ⟨h, -, -⟩ | ⟨h, -, -⟩
  · exact e
  · omega
  · cases hp.symm.trans h
  · cases hp.symm.trans h

/-- A high phase that ends below capacity is recorded (R97). -/
theorem observe_high {s : State} (hp : s.prev = true) (hh : s.hcnt.toNat < s.cap) :
    s.observe = { s with high := s.high.setIfInBounds s.hcnt.toNat (s.ports.ts - s.anchor), hcnt := s.hcnt + 1
                         anchor := s.ports.ts, prev := s.ports.lineIn } := by
  rcases observe_cases s with ⟨h, -, -⟩ | ⟨h, -, -⟩ | ⟨-, -, e⟩ | ⟨-, h, -⟩
  · cases hp.symm.trans h
  · cases hp.symm.trans h
  · exact e
  · omega

/-- The phase that ends at a full buffer is not recorded (R98). -/
theorem observe_full {s : State}
    (full : (s.prev = false ∧ s.cap ≤ s.lcnt.toNat) ∨ (s.prev = true ∧ s.cap ≤ s.hcnt.toNat)) :
    s.observe = { s with anchor := s.ports.ts, prev := s.ports.lineIn } := by
  rcases observe_cases s with ⟨hp, hl, -⟩ | ⟨-, -, e⟩ | ⟨hp, hh, -⟩ | ⟨-, -, e⟩
  · rcases full with ⟨-, h⟩ | ⟨h, -⟩
    · omega
    · cases hp.symm.trans h
  · exact e
  · rcases full with ⟨h, -⟩ | ⟨-, h⟩
    · cases hp.symm.trans h
    · omega
  · exact e

/-- Settles O24: the iteration observes the transition and records nothing. -/
theorem fullBufferStoresNothing : Obligations.FullBufferStoresNothing := by
  intro s t h moved full
  cases (exec_poll_eq s).symm.trans h
  rw [polled_of_moved moved, observe_full full]
  exact ⟨rfl, rfl, rfl, rfl, rfl, rfl, rfl⟩

/-- A time difference modulo 2^32 from plain numbers (R100). -/
theorem sub_eq_ofNat (now since : Word) : now - since = BitVec.ofNat 32 (now.toNat + 2 ^ 32 - since.toNat) :=
  BitVec.eq_of_toNat_eq ((elapsedUs_toNat now since).trans (BitVec.toNat_ofNat _ _).symm)

/-- What an iteration observes, register by register (R95 to R98). -/
theorem observed_eq (s : State) :
    (if s.ports.lineIn ≠ s.prev then s.observe else s) =
      { s with
        low := if s.ports.lineIn ≠ s.prev ∧ s.prev = false ∧ s.lcnt.toNat < s.cap
          then s.low.setIfInBounds s.lcnt.toNat (s.ports.ts - s.anchor) else s.low
        lcnt := if s.ports.lineIn ≠ s.prev ∧ s.prev = false ∧ s.lcnt.toNat < s.cap then s.lcnt + 1 else s.lcnt
        high := if s.ports.lineIn ≠ s.prev ∧ s.prev = true ∧ s.hcnt.toNat < s.cap
          then s.high.setIfInBounds s.hcnt.toNat (s.ports.ts - s.anchor) else s.high
        hcnt := if s.ports.lineIn ≠ s.prev ∧ s.prev = true ∧ s.hcnt.toNat < s.cap then s.hcnt + 1 else s.hcnt
        anchor := if s.ports.lineIn ≠ s.prev then s.ports.ts else s.anchor
        prev := s.ports.lineIn } := by
  by_cases moved : s.ports.lineIn = s.prev
  · simp [moved]
  · rcases observe_cases s with ⟨hp, hl, e⟩ | ⟨hp, hl, e⟩ | ⟨hp, hh, e⟩ | ⟨hp, hh, e⟩ <;> rw [hp] at moved
    · simp [e, hp, hl, moved]
    · simp [e, hp, Nat.not_lt_of_le hl, moved]
    · simp [e, hp, hh, moved]
    · simp [e, hp, Nat.not_lt_of_le hh, moved]

/-- Settles O22: the registers of the capture by `observed_eq`, the exit by `polled_seq` on the counts after the step. -/
theorem pollIteration : Obligations.PollIteration := by
  intro s fits moved dur lowEnds highEnds hcnt'
  have counted := polled_iter fits
  have iter : s.polled.iter = s.iter + 1 := BitVec.eq_of_toNat_eq (counted.trans (succ_toNat fits).symm)
  have hcnt : s.polled.hcnt = hcnt' := by rw [polled_eq, observed_eq]; rfl
  rw [exec_poll_eq, polled_eq, polled_seq, hcnt, counted, iter, observed_eq, sub_eq_ofNat]
  rfl

/-! ## A recorded phase at the host's reads (R42, R96, R97) -/

/-- From `0x40` on the host reads an entry of a buffer or 0: the words agree where the entries do. -/
theorem regRead_eq_of_entries_eq {s t : State} {a : BitVec 8} (ha : 0x40 ≤ a.toNat) (params : t.params = s.params)
    (low : a.toNat < 0x80 → t.low[a.toNat - 0x40]? = s.low[a.toNat - 0x40]?)
    (high : 0x80 ≤ a.toNat → t.high[a.toNat - 0x80]? = s.high[a.toNat - 0x80]?) : t.regRead a = s.regRead a := by
  rw [regRead_from_0C t a (by omega), regRead_from_0C s a (by omega)]
  unfold State.highAt State.lowAt State.cap
  rw [params]
  by_cases h : 0x80 ≤ a.toNat
  · rw [if_pos h, if_pos h, high h]
  · rw [if_neg h, if_neg h, low (Nat.lt_of_not_le h)]

/-- A low duration written to an existing entry is the word of that entry, and the other words stay. -/
theorem regRead_recordLow {s t : State} {i : Nat} {d : Word} (hi : i < s.cap) (hcap : s.cap ≤ 64)
    (params : t.params = s.params) (low : t.low = s.low.setIfInBounds i d) (high : t.high = s.high) :
    t.regRead (BitVec.ofNat 8 (0x40 + i)) = d ∧
    ∀ a : BitVec 8, 0x40 ≤ a.toNat → a.toNat ≠ 0x40 + i → t.regRead a = s.regRead a := by
  have exists_entry : i < t.cap := by rw [State.cap, params]; exact hi
  constructor
  · rw [regRead_low t i (by omega), State.lowAt, if_pos exists_entry, low, buffer_read_same _ _ _ (by omega)]
    rfl
  · intro a ha hne
    exact regRead_eq_of_entries_eq ha params (fun _ => by rw [low, buffer_read_other _ _ _ _ (by omega)])
      (fun _ => by rw [high])

/-- A high duration written to an existing entry is the word of that entry, and the other words stay. -/
theorem regRead_recordHigh {s t : State} {i : Nat} {d : Word} (hi : i < s.cap) (hcap : s.cap ≤ 64)
    (params : t.params = s.params) (low : t.low = s.low) (high : t.high = s.high.setIfInBounds i d) :
    t.regRead (BitVec.ofNat 8 (0x80 + i)) = d ∧
    ∀ a : BitVec 8, 0x40 ≤ a.toNat → a.toNat ≠ 0x80 + i → t.regRead a = s.regRead a := by
  have exists_entry : i < t.cap := by rw [State.cap, params]; exact hi
  constructor
  · rw [regRead_high t i (by omega), State.highAt, if_pos exists_entry, high, buffer_read_same _ _ _ (by omega)]
    rfl
  · intro a ha hne
    exact regRead_eq_of_entries_eq ha params (fun _ => by rw [low])
      (fun _ => by rw [high, buffer_read_other _ _ _ _ (by omega)])

/-- Settles O23: the iteration writes one entry and its count; a count below `CAP` goes up without a wrap. -/
theorem recordedDurationReadsBack : Obligations.RecordedDurationReadsBack := by
  intro s t wf h moved
  cases (exec_poll_eq s).symm.trans h
  obtain ⟨hcap, -⟩ := params_range_of_wellFormed wf
  refine ⟨fun hp (hl : s.lcnt.toNat < s.cap) => ?_, fun hp (hh : s.hcnt.toNat < s.cap) => ?_⟩
  · rw [polled_of_moved moved, observe_low hp hl]
    exact And.imp_right (fun others => ⟨succ_toNat (by omega), rfl, others⟩) (regRead_recordLow hl hcap rfl rfl rfl)
  · rw [polled_of_moved moved, observe_high hp hh]
    exact And.imp_right (fun others => ⟨succ_toNat (by omega), rfl, others⟩) (regRead_recordHigh hh hcap rfl rfl rfl)

/-! ## The end of the loop (R99) -/

/-- Settles O48: the run of `Inv.poll_run` leaves `POLL`, so it has a step, and the invariant says at its end why the loop
ended. -/
theorem pollLoopEndsWithinTheBudget : Obligations.PollLoopEndsWithinTheBudget := by
  intro s h hs hr
  have fits : s.iter.toNat + (s.params.pollBudget - s.iter.toNat) = s.pollBudget := Nat.add_sub_of_le h.iter_le
  obtain ⟨n, t, hn, b, ht, iter⟩ := h.poll_run hs _ fits hr
  have nonempty : n ≠ 0 := by
    rintro rfl
    cases b
    cases hs.symm.trans ht
  have ended := (b.inv h).loop_end (by rw [ht]; rfl)
  rw [b.pollBudget] at ended
  exact ⟨n, t, Nat.pos_of_ne_zero nonempty, hn, b.run_eq, ht, iter, ended⟩

end Sys2Proof.Machine
end

section
/-! PROOFS, part 15. The decoder's first three operations register by register, the closed form at the fortieth bit, and
the decoder's end as determined by the train (R110 to R116). -/

namespace Sys2Proof.Machine

/-! ## `CHK_CNT` and `SKIP` (R110, R111) -/

/-- Settles O25, by the definition of the operation and of error entry. -/
theorem chkCntRequiresFortyPulses : Obligations.ChkCntRequiresFortyPulses := fun _ => rfl

/-- A natural number that fits is stored as it is. -/
theorem narrow_natCast (tick : Nat) {w n : Nat} (h : n < 2 ^ w) : narrow tick w (n : Int) = BitVec.ofNat w n := by
  apply BitVec.eq_of_toNat_eq
  rw [narrow_toNat tick w n h, BitVec.toNat_ofNat, Nat.mod_eq_of_lt h]

/-- Settles O26: the excess over 40 is a natural number that fits in `SKIPN`. -/
theorem skipDropsTheExcess : Obligations.SkipDropsTheExcess := by
  intro s forty
  have fits : s.hcnt.toNat - 40 < 2 ^ 8 := by omega
  rw [← narrow_natCast s.tick fits, Int.natCast_sub forty]
  rfl

/-! ## `SHIFT` (R112, R113, R115) -/

/-- `SHIFT` on an existing selected duration assembles its bit. -/
theorem exec_shift_of_selected {s : State} {k : Fin 5} {d : Word} (hn : s.bitidx.toNat < 40)
    (hk : k.val = s.bitidx.toNat / 8) (hd : s.selectedDuration s.bitidx.toNat = some d) :
    exec .shift s = .next (s.assembleBit k (durationBit d)) := by
  rw [show k = ⟨s.bitidx.toNat / 8, by omega⟩ from Fin.ext hk]
  exact exec_of_engineStep .shift s _ (.shift hn d hd)

/-- Assembling a bit writes no entry of the buffer (R113). -/
theorem high_assembleBit (s : State) (k : Fin 5) (x : Bool) : (s.assembleBit k x).high = s.high := by
  rw [assembleBit_eq, setFrameByte_frame]

/-- The selected duration where its entry exists (R113). -/
theorem selectedDuration_eq_some {s : State} {j : Nat} (hcap : s.cap ≤ 64)
    (entry : (j = 0 ∧ s.zfirst = true) ∨ s.skipn.toNat + j < s.cap) :
    s.selectedDuration j = some (if j = 0 ∧ s.zfirst = true then 0 else s.high[s.skipn.toNat + j]?.getD 0) := by
  rcases selectedDuration_cases s j with ⟨h0, hz, e⟩ | ⟨not_forced, hlt, e⟩ | ⟨not_forced, hge, -⟩
  · rw [e, if_pos ⟨h0, hz⟩]
  · rw [e, if_neg not_forced, Vector.getElem?_eq_getElem (by omega), Option.getD_some]
  · have := entry.resolve_left not_forced
    omega

theorem durationBit_toNat (d : Word) : (durationBit d).toNat = if 30 ≤ d.toNat then 1 else 0 := by
  rw [Bool.toNat, Bool.cond_eq_ite]
  exact if_congr (durationBit_iff d) rfl rfl

/-- R112 as a register value. -/
theorem shiftInBit_eq_ofNat (b : Byte) (x : Bool) : shiftInBit b x = BitVec.ofNat 8 (2 * b.toNat + x.toNat) := by
  apply BitVec.eq_of_toNat_eq
  rw [shiftInBit_toNat, BitVec.toNat_ofNat]

/-- One frame byte changed by `f`, byte by byte (R23). -/
theorem setFrameByte_of_frameByte (s : State) (k : Fin 5) (f : Byte → Byte) :
    s.setFrameByte k (f (s.frameByte k)) =
      { s with b0 := if k.val = 0 then f s.b0 else s.b0
               b1 := if k.val = 1 then f s.b1 else s.b1
               b2 := if k.val = 2 then f s.b2 else s.b2
               b3 := if k.val = 3 then f s.b3 else s.b3
               b4 := if k.val = 4 then f s.b4 else s.b4 } := by
  fin_cases k <;> rfl

/-- Settles O27: the selected duration exists, so its bit is assembled; byte by byte by `setFrameByte_of_frameByte`. -/
theorem shiftAssemblesOneBit : Obligations.ShiftAssemblesOneBit := by
  intro s wf hn entry j d shifted
  obtain ⟨hcap, -⟩ := params_range_of_wellFormed wf
  have selected := selectedDuration_eq_some hcap entry
  have bit_shifted : (fun b => shiftInBit b (durationBit
      (if j = 0 ∧ s.zfirst = true then 0 else s.high[s.skipn.toNat + j]?.getD 0))) = shifted := by
    funext b
    rw [shiftInBit_eq_ofNat, durationBit_toNat, apply_ite BitVec.toNat]
    rfl
  have index : s.bitidx + 1 = BitVec.ofNat 6 (j + 1) := by
    apply BitVec.eq_of_toNat_eq
    rw [succ_toNat (by omega), BitVec.toNat_ofNat, Nat.mod_eq_of_lt (by omega)]
  rw [exec_shift_of_selected (k := ⟨j / 8, by omega⟩) hn rfl selected, assembleBit_eq, index,
    setFrameByte_of_frameByte s _ fun b => shiftInBit b (durationBit _), ← bit_shifted]

/-- Settles O28: the forced zero is selected whatever the buffer holds, and `SHIFT` does not write the buffer. -/
theorem forcedZeroFirstBit : Obligations.ForcedZeroFirstBit := by
  intro s v hb hz
  let u := { s with high := s.high.setIfInBounds 0 v }
  have first : u.bitidx.toNat = 0 := congrArg BitVec.toNat hb
  have forced : u.selectedDuration u.bitidx.toNat = some 0 := if_pos ⟨first, hz⟩
  have shifted : (u.assembleBit 0 (durationBit 0)).b0 = shiftInBit s.b0 (durationBit 0) :=
    frameByte_assembleBit_same u 0 _
  refine ⟨u.assembleBit 0 (durationBit 0), exec_shift_of_selected (by rw [first]; decide) (by rw [first]; rfl) forced,
    ?_, ?_⟩
  · rw [shifted, shiftInBit_toNat]
    rfl
  · simp [high_assembleBit, u]

/-- Settles O55: the index is below `HCNT` since `SKIPN` is `HCNT - 40`, and the engine's operation answers. -/
theorem decoderReadsOnlyWhatWasCaptured : Obligations.DecoderReadsOnlyWhatWasCaptured := by
  intro s h hs
  have past_skip : s.passedSkip = true := by simp [State.passedSkip, State.passedCount, hs]
  have forty := h.count_passed (passedCount_of_passedSkip past_skip)
  obtain ⟨skipn, -⟩ := h.selection past_skip
  obtain ⟨below, d, selected⟩ := h.selectedDuration_isSome hs
  exact ⟨by omega, _, exec_shift_of_selected (k := ⟨s.bitidx.toNat / 8, by omega⟩) below rfl selected⟩

/-! ## The fortieth bit (R114) -/

/-- After `SKIP` the durations of the train are the selected ones, in the registers of R113. -/
theorem Inv.trainDuration_toNat {s : State} (h : Inv s) (past : s.passedSkip = true) (j : Nat) :
    (trainDuration s.hcnt.toNat s.high j).toNat =
      if j = 0 ∧ s.zfirst = true then 0 else (s.high[s.skipn.toNat + j]?.getD 0).toNat := by
  obtain ⟨skipn, zfirst⟩ := h.selection past
  have forced : (s.hcnt.toNat = 40 ∧ j = 0) ↔ (j = 0 ∧ s.zfirst = true) := by
    rw [zfirst, decide_eq_true_iff, and_comm]
  rw [trainDuration, skipn, if_congr forced rfl rfl, apply_ite BitVec.toNat]
  rfl

/-- Settles O50: the state after the step keeps the invariant, so its bytes are the closed form of the train. -/
theorem fortiethShiftCompletesTheClosedForm : Obligations.FortiethShiftCompletesTheClosedForm := by
  intro s t h _ hstep ht selected k
  have inv := everyStepKeepsTheInvariant s t h hstep
  have past : t.passedShift = true := by simp [State.passedShift, State.passedSkip, State.passedCount, ht]
  have bit (j : Nat) :
      (durationBit (trainDuration t.hcnt.toNat t.high j)).toNat = if 30 ≤ selected j then 1 else 0 := by
    rw [durationBit_toNat, inv.trainDuration_toNat (passedSkip_of_passedShift past)]
  rw [frameBytesAreTheClosedForm t inv (inv.assembled past) k, trainByte]
  simp only [bit]

/-! ## The end of a decode (R116) -/

/-- The frame bytes of a final state are a function of the captured train. -/
theorem Inv.frameByte_of_done {s : State} (h : Inv s) (hs : s.seq = .done) (k : Fin 5) :
    (s.frameByte k).toNat = if s.hcnt.toNat < 40 then 0 else trainByte s.hcnt.toNat s.high k := by
  by_cases few : s.err = .invalidNumberOfPulses
  · have u := h.undecoded (by simp [State.passedSkip, State.passedCount, hs, few])
    rw [if_pos (h.count_failed hs few), u.frame_zero k]
    rfl
  · obtain ⟨past_count, past_shift, -⟩ := passedSum_of_done hs few
    rw [if_neg (Nat.not_lt_of_le (h.count_passed past_count))]
    exact frameBytesAreTheClosedForm s h (h.assembled past_shift) k

/-- `SUM` of a final state is the sum of its data bytes, which are 0 where nothing was decoded. -/
theorem Inv.sum_of_done {s : State} (h : Inv s) (hs : s.seq = .done) :
    s.sum = checksum (s.frameByte 0) (s.frameByte 1) (s.frameByte 2) (s.frameByte 3) := by
  by_cases few : s.err = .invalidNumberOfPulses
  · have u := h.undecoded (by simp [State.passedSkip, State.passedCount, hs, few])
    simp only [u.sum_zero, u.frame_zero]
    rfl
  · obtain ⟨-, -, past_sum⟩ := passedSum_of_done hs few
    rw [h.sum_value, if_pos past_sum]
    rfl

/-- Settles O52: both runs end in final states of the same train, off which `decodeTrain` and the frame are read. -/
theorem decodeIsDeterministic : Obligations.DecodeIsDeterministic := by
  intro s u hs hu seq_s seq_u reset_s reset_u high hcnt variant
  obtain ⟨s', run_s, done_s, capture_s⟩ := hs.decoder_run seq_s reset_s
  obtain ⟨u', run_u, done_u, capture_u⟩ := hu.decoder_run seq_u reset_u
  have inv_s := run_s.inv hs
  have inv_u := run_u.inv hu
  have high' : s'.high = u'.high := capture_s.high.trans (high.trans capture_u.high.symm)
  have hcnt' : s'.hcnt = u'.hcnt := capture_s.hcnt.trans (hcnt.trans capture_u.hcnt.symm)
  have variant' : s'.variant = u'.variant := capture_s.variant.trans (variant.trans capture_u.variant.symm)
  have decoded := inv_s.decodeTrain_eq done_s
  rw [high', hcnt', variant', inv_u.decodeTrain_eq done_u] at decoded
  obtain ⟨err, temp, hum, steps⟩ := Decoded.mk.inj decoded
  have frame (k : Fin 5) : s'.frameByte k = u'.frameByte k := by
    apply BitVec.eq_of_toNat_eq
    rw [inv_s.frameByte_of_done done_s, inv_u.frameByte_of_done done_u, high', hcnt']
  have sum : s'.sum = u'.sum := by
    rw [inv_s.sum_of_done done_s, inv_u.sum_of_done done_u, frame, frame, frame, frame]
  exact ⟨_, s', u', run_s.run_eq, err ▸ run_u.run_eq, done_s, done_u, err.symm, BitVec.eq_of_toInt_eq temp.symm,
    BitVec.eq_of_toNat_eq hum.symm, sum, frame⟩

end Sys2Proof.Machine
end

section
/-! PROOFS, part 16. The check of the sum (R120 to R123), and what the error of a final state says of its registers (R140,
R141). -/

namespace Sys2Proof.Machine

/-! ## The frame and its sum -/

/-- The frame in the registers passes the check: the sum of the data bytes is the checksum byte (R121). -/
def State.sumAgrees (s : State) : Prop := checksum s.b0 s.b1 s.b2 s.b3 = s.b4

/-- R121 in plain numbers. -/
theorem sumAgrees_iff (s : State) :
    s.sumAgrees ↔ (s.b0.toNat + s.b1.toNat + s.b2.toNat + s.b3.toNat) % 256 = s.b4.toNat := by
  rw [State.sumAgrees, ← checksum_toNat, BitVec.toNat_inj]

/-- The sum modulo 256 is the addition of bytes. -/
theorem checksum_eq_add (b0 b1 b2 b3 : Byte) : checksum b0 b1 b2 b3 = b0 + b1 + b2 + b3 := by
  apply BitVec.eq_of_toNat_eq
  simp [checksum_toNat]

/-- With four bytes of the frame fixed, one value of the fifth passes the check: addition of bytes cancels. -/
theorem eq_frameByte_of_sumAgrees {s : State} {k : Fin 5} {b : Byte} (h : s.sumAgrees)
    (h' : (s.setFrameByte k b).sumAgrees) : b = s.frameByte k := by
  unfold State.sumAgrees at h h'
  match k with
  | 0 | 1 | 2 | 3 => simpa [checksum_eq_add, State.setFrameByte, State.frameByte] using h'.trans h.symm
  | 4 => exact h'.symm.trans h

/-- One more in `B0` and one less in `B1` leave the sum as it is (R122). -/
theorem sumAgrees_compensated {s : State} (h : s.sumAgrees) :
    ({ s with b0 := s.b0 + 1, b1 := s.b1 - 1 } : State).sumAgrees := by
  have same_sum : s.b0 + 1 + (s.b1 - 1) = s.b0 + s.b1 := by bv_omega
  rw [State.sumAgrees, checksum_eq_add] at h ⊢
  rw [same_sum, h]

/-- A byte with one of its bits inverted is another byte. -/
theorem invert_bit_ne (b : Byte) {i : Nat} (hi : i < 8) : b ^^^ BitVec.ofNat 8 (2 ^ i) ≠ b := by
  intro same
  have mask_zero : BitVec.ofNat 8 (2 ^ i) = 0 := by simpa using same
  have fits : 2 ^ i < 2 ^ 8 := Nat.pow_lt_pow_right (by decide) hi
  have no_value := congrArg BitVec.toNat mask_zero
  rw [BitVec.toNat_ofNat, Nat.mod_eq_of_lt fits] at no_value
  exact (Nat.two_pow_pos i).ne' no_value

/-! ## `CHK_SUM` (R120, R121, R122) -/

/-- `CHK_SUM` on a frame that passes the check. -/
theorem exec_chkSum_of_sumAgrees {s : State} (h : s.sumAgrees) :
    exec .chkSum s = .next { s with sum := checksum s.b0 s.b1 s.b2 s.b3, seq := .conv } :=
  exec_of_engineStep .chkSum s _ (.sumPassed h)

/-- `CHK_SUM` on a frame that does not. -/
theorem exec_chkSum_of_not_sumAgrees {s : State} (h : ¬ s.sumAgrees) :
    exec .chkSum s =
      .next { s with sum := checksum s.b0 s.b1 s.b2 s.b3, err := .invalidChecksum, seq := .done } :=
  exec_of_engineStep .chkSum s _ (.sumFailed h)

/-- `CHK_SUM` goes on to `CONV` exactly where the frame passes the check. -/
theorem chkSum_to_conv_iff (s : State) : (∃ t, exec .chkSum s = .next t ∧ t.seq = .conv) ↔ s.sumAgrees := by
  constructor
  · rintro ⟨t, ht, to_conv⟩
    by_contra differs
    cases (exec_chkSum_of_not_sumAgrees differs).symm.trans ht
    cases to_conv
  · exact fun agrees => ⟨_, exec_chkSum_of_sumAgrees agrees, rfl⟩

/-- Settles O30: by whether the sum agrees with `B4`. -/
theorem chkSumComparesTheSum : Obligations.ChkSumComparesTheSum := by
  intro s n
  by_cases agrees : s.sumAgrees
  · rw [if_neg (not_not.mpr ((sumAgrees_iff s).mp agrees))]
    exact exec_chkSum_of_sumAgrees agrees
  · rw [if_pos (mt (sumAgrees_iff s).mpr agrees)]
    exact exec_chkSum_of_not_sumAgrees agrees

/-- Settles O31: an inverted bit changes its byte, and the other four bytes determine it. -/
theorem singleBitCorruptionIsDetected : Obligations.SingleBitCorruptionIsDetected := by
  constructor
  · intro s k i hi passed
    have agrees := (chkSum_to_conv_iff s).mp passed
    have differs : ¬ (s.setFrameByte k (s.frameByte k ^^^ BitVec.ofNat 8 (2 ^ i))).sumAgrees :=
      fun h => invert_bit_ne _ hi (eq_frameByte_of_sumAgrees agrees h)
    exact ⟨_, exec_chkSum_of_not_sumAgrees differs, rfl, rfl⟩
  · intro s _ _ passed
    exact (chkSum_to_conv_iff _).mpr (sumAgrees_compensated ((chkSum_to_conv_iff s).mp passed))

/-! ## Final states (R123, R140, R141) -/

/-- A final state has the error of the count check exactly where the recorded high phases are fewer than 40 (R110). -/
theorem Inv.few_pulses_iff {s : State} (h : Inv s) (hs : s.seq = .done) :
    s.err = .invalidNumberOfPulses ↔ s.hcnt.toNat < 40 := by
  refine ⟨h.count_failed hs, fun few => ?_⟩
  by_contra other
  obtain ⟨past_count, -, -⟩ := passedSum_of_done hs other
  exact Nat.not_lt_of_le (h.count_passed past_count) few

/-- Below the phase target the loop ended by its budget (R99). -/
theorem Inv.budget_used {s : State} (h : Inv s) (past : afterLoop s.seq = true) (few : s.hcnt.toNat < 40) :
    s.iter.toNat = s.pollBudget :=
  (h.loop_end past).resolve_left (by omega)

/-- The frame words show nothing of a read in which nothing is decoded. -/
theorem Undecoded.frameWords {s : State} (u : Undecoded s) : s.frame0Word = 0 ∧ s.frame1Word = 0 := by
  have b0 : s.b0 = 0 := u.frame_zero 0
  have b1 : s.b1 = 0 := u.frame_zero 1
  have b2 : s.b2 = 0 := u.frame_zero 2
  have b3 : s.b3 = 0 := u.frame_zero 3
  have b4 : s.b4 = 0 := u.frame_zero 4
  constructor <;> apply BitVec.eq_of_toNat_eq
  · rw [frame0Word_toNat, b0, b1, b2, b3]
    rfl
  · rw [frame1Word_toNat, b4, u.sum_zero]
    rfl

/-- Past the count check the error is `invalidChecksum` or none. -/
theorem invalidChecksum_iff {e : ErrCode} (he : e ≠ .invalidNumberOfPulses) :
    e = .invalidChecksum ↔ e ≠ .noError := by
  cases e with
  | noError | invalidChecksum => decide
  | invalidNumberOfPulses => exact absurd rfl he

/-- Settles O54: the invariant says why the loop ended, what an undecoded read leaves at 0, and what `SUM` is after the
check. -/
theorem finalStateExplainsItsError : Obligations.FinalStateExplainsItsError := by
  intro s h hs
  refine ⟨h.few_pulses_iff hs, fun few => ?_, fun enough => ?_⟩
  · have u := h.undecoded (by simp [State.passedSkip, State.passedCount, hs, few])
    exact ⟨h.budget_used (by rw [hs]; rfl) (h.count_failed hs few), u.frameWords⟩
  · obtain ⟨-, -, past_sum⟩ := passedSum_of_done hs enough
    have sum := h.sum_value
    rw [if_pos past_sum] at sum
    exact ⟨by rw [sum, checksum_toNat], (invalidChecksum_iff enough).trans (not_congr (h.sum_passed past_sum))⟩

end Sys2Proof.Machine
end

section
/-! PROOFS, part 17. The conversion: the two results of `CONV` in plain numbers and their ranges (R125 to R131). -/

namespace Sys2Proof.Machine

/-! ## The temperature in tenths of a degree Celsius (R126 to R128) -/

/-- The two magnitudes of R126 and R127, of which `Type22` leaves the top bit of `B2` out. -/
theorem magnitudeTenths_eq (v : Variant) (b2 b3 : Byte) :
    magnitudeTenths v b2 b3 = if v = .type11 then b2.toNat * 10 else b2.toNat % 128 * 256 + b3.toNat := by
  rw [magnitudeTenths, (byte_top_bit b2).2]

/-- The top bit of `B2` is the sign (R128). -/
theorem celsiusTenths_eq_sign_mul (v : Variant) (b2 b3 : Byte) :
    celsiusTenths v b2 b3 = (if 128 ≤ b2.toNat then -1 else 1) * (magnitudeTenths v b2 b3 : Int) := by
  rw [celsiusTenths, if_congr (byte_top_bit b2).1 rfl rfl, ite_mul, neg_one_mul, one_mul]

/-- The magnitude of `Type22` has 15 bits, so either sign of it is in the range of R131. -/
theorem celsiusTenths_type22_range (b2 b3 : Byte) :
    -32767 ≤ celsiusTenths .type22 b2 b3 ∧ celsiusTenths .type22 b2 b3 ≤ 32767 := by
  have low_byte := b3.isLt
  have magnitude := magnitudeTenths_eq .type22 b2 b3
  rw [if_neg nofun] at magnitude
  rw [celsiusTenths_eq_sign_mul]
  split <;> omega

/-- The sign of `Type11` is a bit of its magnitude too, so no negative value lies above -128 degrees (R131). -/
theorem celsiusTenths_type11_range (b2 b3 : Byte) :
    (0 ≤ celsiusTenths .type11 b2 b3 ∧ celsiusTenths .type11 b2 b3 ≤ 1270) ∨
      (-2550 ≤ celsiusTenths .type11 b2 b3 ∧ celsiusTenths .type11 b2 b3 ≤ -1280) := by
  have byte := b2.isLt
  have magnitude := magnitudeTenths_eq .type11 b2 b3
  rw [if_pos rfl] at magnitude
  rw [celsiusTenths_eq_sign_mul]
  split
  case isTrue negative => right; omega
  case isFalse positive => left; omega

/-- `Type11` measures whole degrees (R126). -/
theorem celsiusTenths_type11_emod (b2 b3 : Byte) : celsiusTenths .type11 b2 b3 % 10 = 0 := by
  have magnitude := magnitudeTenths_eq .type11 b2 b3
  rw [if_pos rfl] at magnitude
  rw [celsiusTenths_eq_sign_mul]
  split <;> omega

/-! ## `CONV` (R125) -/

/-- What `CONV` answers: the two results and `DONE`, in every state. -/
theorem exec_conv (s : State) :
    exec .conv s = .next { s with
      temp := BitVec.ofInt 32 (fahrenheitHundredths (celsiusTenths s.variant s.b2 s.b3))
      hum := BitVec.ofNat 32 (humidityTenths s.variant s.b0 s.b1)
      seq := .done } :=
  exec_of_engineStep .conv s _ .conv

/-- After `CONV` the words of `TEMP` and `HUM` are the exact integers: neither of them wraps. -/
theorem results_of_exec_conv {s t : State} (h : exec .conv s = .next t) :
    t.temp.toInt = celsiusTenths s.variant s.b2 s.b3 * 18 + 3200 ∧
      t.hum.toNat = humidityTenths s.variant s.b0 s.b1 := by
  cases (exec_conv s).symm.trans h
  exact ⟨temp_toInt _ _ _, hum_toNat _ _ _⟩

/-- Settles O32: the words hold the exact results, and those are sign times magnitude in plain numbers. -/
theorem convConvertsTheFrame : Obligations.ConvConvertsTheFrame := by
  intro s
  obtain ⟨temp, hum⟩ := results_of_exec_conv (exec_conv s)
  refine ⟨_, exec_conv s, rfl, ?_, hum⟩
  rw [temp, celsiusTenths_eq_sign_mul, magnitudeTenths_eq, Nat.cast_ite, Nat.cast_mul, Nat.cast_ofNat]

/-- Settles O33: the humidity from the bytes it is made of, the temperature from the range in tenths of a degree
Celsius. -/
theorem resultRanges : Obligations.ResultRanges := by
  intro s t h
  obtain ⟨temp, hum⟩ := results_of_exec_conv h
  have b0 := s.b0.isLt
  have b1 := s.b1.isLt
  constructor <;> intro variant <;> rw [variant] at temp hum
  · obtain ⟨low, high⟩ := celsiusTenths_type22_range s.b2 s.b3
    rw [humidityTenths, if_neg nofun] at hum
    exact ⟨by omega, by omega, by omega, _, low, high, temp⟩
  · have range := celsiusTenths_type11_range s.b2 s.b3
    rw [humidityTenths, if_pos rfl] at hum
    exact ⟨by omega, by omega, by omega, by omega, _, temp, celsiusTenths_type11_emod _ _, range⟩

end Sys2Proof.Machine
end

section
/-! PROOFS, part 18. A reset step overrides all else, and `VARIANT` has no other writer (R6, R13, R160, R162). -/

namespace Sys2Proof.Machine

/-- Settles O35: the step is that of `step_reset`, whose registers are the cleared ones and whose word is the read's. -/
theorem resetStepIsDominant : Obligations.ResetStepIsDominant := by
  intro s hr
  exact ⟨_, step_reset s hr, rfl, fun hv hw => if_pos ⟨hv, hw⟩⟩

/-- No operation of the engine writes `VARIANT` (R13). -/
theorem engineStep_variant (s t : State) (q : Sequencer) (h : EngineStep s q t) : t.variant = s.variant := by
  cases h with
  | poll => rw [polled_frame]
  | shift => rw [assembleBit_eq, setFrameByte_frame]
  | _ => rfl

/-- Settles O36: a reset loads the strap; the beginning of a read and the engine's operations keep `VARIANT`. -/
theorem onlyResetWritesTheVariant : Obligations.OnlyResetWritesTheVariant := by
  intro s t h
  obtain ⟨-, -, params⟩ := step_model_fields s t h
  refine ⟨params, ?_⟩
  rcases step_next_cases s t h with ⟨hr, r, rfl⟩ | ⟨hr, -, rfl⟩ | ⟨hr, r, e⟩
  · rw [if_pos hr]
    rfl
  · rw [if_neg (Bool.eq_false_iff.mp hr), beginRead_variant, sample_variant]
  · rw [if_neg (Bool.eq_false_iff.mp hr), engineStep_variant _ _ _ e, sample_variant]

end Sys2Proof.Machine
end
